-- ==== Sys2Proof/Word.lean ====
section
/-! DEFINITION. The widths the spec uses (00_scope.md R8, R11): bytes of the wire buffer, the 16-bit checksum and padding
fields, and the 32-bit registers and bus words. -/

namespace Sys2Proof

/-- One byte of the wire buffer (10_state.md R35). -/
abbrev Byte := BitVec 8

/-- A 16-bit value: the checksum and padding fields (00_scope.md R8). -/
abbrev Half := BitVec 16

/-- A 32-bit value: a bus word, a register, a command word (10_state.md R22, 30_encoding.md R106). -/
abbrev Word := BitVec 32

end Sys2Proof
end

