-- ==== Sys2Proof/Syntax.lean ====
section
/-! DEFINITION. The syntax: the commands (30_encoding.md R107), the names of the registers (10_state.md R45), the bus
transactions (20_memory.md R60), the lines of a host program (30_encoding.md R108), and the frame (30_encoding.md R90). -/

namespace Sys2Proof

/-- The commands of spec/opcode_table.json, one constructor per row. The command word has no operand field
(30_encoding.md R106), so no constructor has an argument. -/
inductive Instr where
  /-- ENCODE, 0x0000_0001 (40_frame_codec.md R121). -/
  | encode
  /-- DECODE, 0x0000_0002 (40_frame_codec.md R123). -/
  | decode
  /-- VERIFY, 0x0000_0003 (41_checksum.md R156). -/
  | verify
  /-- CSUM, 0x0000_0004 (41_checksum.md R155). -/
  | csum
deriving DecidableEq, Repr

/-- Why a command word is no command (30_encoding.md R107). Both kinds complete with ILLEGAL_CMD (60_exceptions.md R183). -/
inductive DecodeReject where
  /-- c[31:3] ≠ 0. -/
  | reservedBits
  /-- c[31:3] = 0 and OP is 0, 5, 6 or 7. -/
  | reservedOpcode
deriving DecidableEq, Repr

/-- The 14 registers, in the order of the map (10_state.md R45). -/
inductive Reg where
  | ctrl | cmd | status | cap
  | seq | ackno | tsHi | tsLo | len | flags
  | cksum | pad | csres | wblen
deriving DecidableEq, Repr

/-- The transaction sizes that do not exist on this bus (20_memory.md R60). -/
inductive OtherSize where
  | bits16 | bits64 | burst
deriving DecidableEq, Repr

/-- A bus transaction (20_memory.md R60): `Read(size, off)` or `Write(size, off, v)` with size 8 or 32, or a transaction of
another size that a bus presents. -/
inductive Access where
  | read8 (off : Word)
  | read32 (off : Word)
  | write8 (off : Word) (v : Byte)
  | write32 (off : Word) (v : Word)
  | other (size : OtherSize) (off : Word)
deriving DecidableEq, Repr

/-- A named condition over a value read (30_encoding.md R108, `st.VALID == 0`): bits `hi` down to `lo` of the value named
`name` equal `value`. Names are numbers (notes/assumptions/9.md). -/
structure Cond where
  name : Nat
  hi : Nat
  lo : Nat
  value : Nat
deriving DecidableEq, Repr

/-- One line of a host program (30_encoding.md R108). Offsets are block offsets: `REG` stands for its offset and `WB+i` for
WB_BASE + i. -/
inductive HostOp where
  /-- `WR32 REG, v` or `WR32 WB+i, v`. -/
  | wr32 (off : Word) (v : Word)
  /-- `WR8 WB+i, v`. -/
  | wr8 (off : Word) (v : Byte)
  /-- `RD32 REG -> name` or `RD32 WB+i -> name`. -/
  | rd32 (off : Word) (name : Nat)
  /-- `RD8 WB+i -> name`. -/
  | rd8 (off : Word) (name : Nat)
  /-- A transaction of a size the bus does not have (20_memory.md R60). -/
  | other (size : OtherSize) (off : Word)
  /-- `POLL -> name`. -/
  | poll (name : Nat)
  /-- `BEQ cond, label`: branch when the condition holds. -/
  | beq (c : Cond) (label : Nat)
  /-- `BNE cond, label`: branch when the condition does not hold. -/
  | bne (c : Cond) (label : Nat)
  /-- `label:`. -/
  | label (l : Nat)
  /-- `HALT`. -/
  | halt
deriving DecidableEq, Repr

/-- A frame: the header fields and the payload (30_encoding.md R90). -/
structure Frame where
  seq : Word
  ack : Word
  timestamp : BitVec 64
  len : BitVec 29
  flags : BitVec 3
  checksum : Half
  padding : Half
  payload : List Byte
deriving DecidableEq, Repr

end Sys2Proof
end

