-- ==== Sys2Proof/Decode.lean ====
section
/-! DEFINITION. The decoder of command words and the encoder, both from 30_encoding.md R106 and R107. -/

namespace Sys2Proof

/-- RSVD, bits 31..3 of a command word (30_encoding.md R106). -/
def cmdRsvd (c : Word) : BitVec 29 := c.extractLsb' 3 29

/-- OP, bits 2..0 of a command word (30_encoding.md R106). -/
def cmdOp (c : Word) : BitVec 3 := c.extractLsb' 0 3

/-- Decoding is total and names each rejection: "if c[31:3] ≠ 0 the word is illegal; otherwise OP selects the row"
(30_encoding.md R107). A rejected word is not undefined: it completes with ILLEGAL_CMD (60_exceptions.md R183). -/
def decode (c : Word) : Except DecodeReject Instr :=
  if cmdRsvd c ≠ 0 then .error .reservedBits
  else if cmdOp c = 0b001 then .ok .encode
  else if cmdOp c = 0b010 then .ok .decode
  else if cmdOp c = 0b011 then .ok .verify
  else if cmdOp c = 0b100 then .ok .csum
  else .error .reservedOpcode

/-- The opcode of a command (30_encoding.md R107). -/
def Instr.op : Instr → BitVec 3
  | .encode => 0b001
  | .decode => 0b010
  | .verify => 0b011
  | .csum => 0b100

/-- The command word: RSVD = 0 above OP (30_encoding.md R106). -/
def encode (i : Instr) : Word := 0#29 ++ i.op

/-- `c` is the ENCODE word; 70_reset_and_hazards.md R213 asks this of the command a soft reset abandons. -/
def isEncodeWord (c : Word) : Bool :=
  match decode c with
  | .ok .encode => true
  | _ => false

/-- The host's question: the instruction the decoder reads from a table word of `nbits` bits. A command is one 32-bit word
(30_encoding.md R106), a number with no byte order of its own (20_memory.md R68), so a word with a bit above bit 31 is none. -/
def decodeTableWord (nbits w : Nat) : Option Instr :=
  if w % 2 ^ nbits < 2 ^ 32 then
    match decode (BitVec.ofNat 32 (w % 2 ^ nbits)) with
    | .ok i => some i
    | .error _ => none
  else none

end Sys2Proof
end

