-- ==== Sys2Proof/Config.lean ====
section
/-! DEFINITION. What is fixed for the machine: the constants the source settles (00_scope.md R8), the bases of the offset
space (20_memory.md R61), the one open parameter that `State.reset` needs, and the free values. -/

namespace Sys2Proof.Config

/-- HDR, the header length in bytes (00_scope.md R8). -/
def hdr : Nat := 24

/-- WB_BASE, the offset of WB[0] in the block's offset space (20_memory.md R61). -/
def wbBase : Nat := 0x80000000

/-- The smallest WB_CAP (00_scope.md R9). -/
def minCap : Nat := 24

/-- The largest WB_CAP (00_scope.md R9). -/
def maxCap : Nat := 2 ^ 31

/-- DESIGN CHOICE (notes/assumptions/1.md), unsafe for a claim about `State.reset` alone. WB_CAP is an OPEN parameter
(00_scope.md R9, 92_eei_decisions.md D5): `State.cap` holds it and the machine reads it from there only. This is the value
`State.reset` takes, the one of the spec's own vectors (95_test_vectors.md: "Unless stated, WB_CAP = 536"). -/
def wbCap : Nat := 536

/-- FREE VALUE (notes/assumptions/2.md to 4.md), safe: byte `i` of draw `n`. Unwritten WB bytes after power-on
(70_reset_and_hazards.md R211), WB[0..23] after an abandoned ENCODE (R213), and 8-bit reads while busy (20_memory.md R65). -/
opaque freeByte : Nat → Nat → Byte

/-- FREE VALUE (notes/assumptions/3.md), safe: draw `n` of a 32-bit read while busy (20_memory.md R65). -/
opaque freeWord : Nat → Word

end Sys2Proof.Config
end

