-- ==== Sys2Proof/Machine/State.lean ====
section
/-! DEFINITION. The state, as plain data: every register of 10_state.md, the wire buffer, PHASE, the HOST agent
(30_encoding.md R108), and the model's own scheduling and draw counters. INVENTORY.md lists every field with its rule. -/

namespace Sys2Proof.Machine

open Sys2Proof

/-- The error codes of 60_exceptions.md R182. Their numbers are `Err.code` (Machine/Flags.lean). -/
inductive Err where
  | ok | illegalCmd | wblenOverCap | shortHeader | shortPayload | lenOverCap
deriving DecidableEq, Repr

/-- PHASE (10_state.md R43): idle, or executing the command word `c`. -/
inductive Phase where
  | idle
  | busy (c : Word)
deriving DecidableEq, Repr

/-- The stored fields of STATUS (10_state.md R37). BUSY has its one home in PHASE (R43; notes/assumptions/10.md). -/
structure Status where
  done : Bool
  valid : Bool
  ovr : Bool
  err : BitVec 4
deriving DecidableEq, Repr

/-- The wire buffer's bytes stored since power-on, by offset in WB, strictly rising. An offset that is not listed has no
stored byte: it reads as its free draw (70_reset_and_hazards.md R211; notes/assumptions/2.md, 11.md). -/
abbrev Memory := List Host.Cell

/-- The HOST agent (00_scope.md R7): its program, the line it is at, and the values it has named (30_encoding.md R108). -/
structure HostAgent where
  prog : List HostOp
  line : Nat
  vals : List (Nat × Word)
deriving DecidableEq, Repr

/-- What moves next: the HOST (one line), the CODEC (its enabled step, if any), or the power-on reset input
(70_reset_and_hazards.md R210). -/
inductive Turn where
  | host
  | codec
  | powerOn
deriving DecidableEq, Repr

/-- The whole machine: one FRAME-CODEC instance (10_state.md R20, R48), its host, and the schedule. -/
structure State where
  /-- SEQ (R23). -/
  seq : Word
  /-- ACKNO (R24). -/
  ackno : Word
  /-- TS_HI (R25). -/
  tsHi : Word
  /-- TS_LO (R26). -/
  tsLo : Word
  /-- LEN[28:0] (R27). -/
  len : BitVec 29
  /-- FLAGS: SYN, FIN, ACK in bits 2, 1, 0 (R28). -/
  flags : BitVec 3
  /-- CKSUM[15:0] (R29). -/
  cksum : Half
  /-- PAD[15:0] (R30). -/
  pad : Half
  /-- CSRES[15:0] (R31). -/
  csres : Half
  /-- WBLEN (R32). -/
  wblen : Word
  /-- CAP, hard-wired to WB_CAP (R33). -/
  cap : Word
  /-- CMD, the last stored command word (R36, R110). -/
  cmd : Word
  /-- DONE, VALID, OVR and ERR of STATUS (R37). -/
  status : Status
  /-- PHASE (R43). -/
  phase : Phase
  /-- WB (R35). -/
  wb : Memory
  /-- MODEL: the draw that the unlisted WB bytes belong to (notes/assumptions/2.md). -/
  wbDraw : Nat
  /-- MODEL: the number of the next draw (notes/assumptions/2.md). -/
  draws : Nat
  /-- The HOST agent. -/
  host : HostAgent
  /-- MODEL: who moves next; when it is empty, the CODEC if it has a step, else the HOST (notes/assumptions/5.md). -/
  turns : List Turn
deriving DecidableEq, Repr

/-- The reasons the machine stops with a fault. -/
inductive Fault where
  /-- Raised by the HOST's turn when its access gets a bus error (20_memory.md R60 to R64: "A model treats a bus error as a
  fault of the host access that caused it"). Safe: the block itself would go on unchanged (notes/assumptions/8.md). -/
  | busError (a : Access)
deriving DecidableEq, Repr

/-- The reasons a step has no meaning. -/
inductive Refusal where
  /-- Raised by an arm of `exec` whose instruction has no meaning yet (no arm does). Safe. -/
  | notModelled (mnemonic : String)
  /-- Raised by the HOST's turn on a branch to a label its program does not define (30_encoding.md R108 gives it no
  meaning; `programWf` rules it out). Safe. -/
  | undefinedLabel (l : Nat)
  /-- Raised by the HOST's turn on a condition over a name it has not read yet (R108 gives it no meaning). Safe. -/
  | unreadName (n : Nat)
deriving DecidableEq, Repr

/-- The state after power-on reset of an instance with capacity register value `cap` (10_state.md R46,
70_reset_and_hazards.md R211): every register at the value of R45, PHASE idle, no WB byte stored. The host has no program
and no turn is scheduled (notes/assumptions/9.md, 5.md); the counters' values are notes/assumptions/2.md. -/
def State.resetWithCap (cap : Word) : State where
  seq := 0
  ackno := 0
  tsHi := 0
  tsLo := 0
  len := 0
  flags := 0
  cksum := 0
  pad := 0
  csres := 0
  wblen := 0
  cap := cap
  cmd := 0
  status := { done := false, valid := false, ovr := false, err := 0 }
  phase := .idle
  wb := []
  wbDraw := 0
  draws := 1
  host := { prog := [], line := 0, vals := [] }
  turns := []

/-- The machine right after power-on reset, at the capacity of notes/assumptions/1.md. -/
def State.reset : State := State.resetWithCap (BitVec.ofNat 32 Config.wbCap)

end Sys2Proof.Machine
end

