-- ==== Sys2Proof/Machine/Flags.lean ====
section
/-! DEFINITION. The condition-like state (10_state.md R44): the frame flags in FLAGS (R28) and the STATUS bits (R37 to R42),
with every rule that computes one of them. -/

namespace Sys2Proof.Machine

open Sys2Proof

/-- The number of an error code in STATUS.ERR (60_exceptions.md R182). -/
def Err.code : Err → BitVec 4
  | .ok => 0
  | .illegalCmd => 1
  | .wblenOverCap => 2
  | .shortHeader => 3
  | .shortPayload => 4
  | .lenOverCap => 5

/-- STATUS.BUSY = 1 exactly when PHASE = BUSY(c) for some c (10_state.md R43). -/
def State.busy (s : State) : Bool :=
  match s.phase with
  | .idle => false
  | .busy _ => true

/-- STATUS as the host reads it (10_state.md R37): ERR[7:4], OVR[3], VALID[2], DONE[1], BUSY[0]; bits 31..8 read 0. -/
def State.statusWord (s : State) : Word :=
  0#24 ++ s.status.err ++ BitVec.ofBool s.status.ovr ++ BitVec.ofBool s.status.valid ++ BitVec.ofBool s.status.done
    ++ BitVec.ofBool s.busy

/-- STATUS at issue: DONE, VALID and ERR cleared, OVR unchanged (70_reset_and_hazards.md R217). -/
def Status.issued (st : Status) : Status := { st with done := false, valid := false, err := 0 }

/-- STATUS at completion: DONE set, ERR the code, OVR unchanged (10_state.md R39, R41, R42). VALID is set only by a VERIFY
that finds the checksum valid, and every other completion leaves it 0 (R40; notes/assumptions/12.md). -/
def Status.completed (st : Status) (e : Err) (valid : Bool) : Status :=
  { st with done := true, valid := valid, err := e.code }

/-- STATUS after a reset (10_state.md R46). -/
def Status.cleared : Status := { done := false, valid := false, ovr := false, err := 0 }

/-- A host write of `v` to STATUS: W1C on OVR, bit 3, and nothing else (10_state.md R37, R41). -/
def Status.written (st : Status) (v : Word) : Status := { st with ovr := st.ovr && !v.getLsbD 3 }

/-- SYN of a flag set (10_state.md R28, 30_encoding.md R96). -/
def flagSyn (f : BitVec 3) : Bool := f.getLsbD 2

/-- FIN of a flag set (10_state.md R28, 30_encoding.md R96). -/
def flagFin (f : BitVec 3) : Bool := f.getLsbD 1

/-- ACK of a flag set (10_state.md R28, 30_encoding.md R96). -/
def flagAck (f : BitVec 3) : Bool := f.getLsbD 0

end Sys2Proof.Machine
end

