-- ==== Sys2Proof/Machine/Ops.lean ====
section
/-! DEFINITION. The named operations over the wire buffer and the registers: byte and big-endian accesses (00_scope.md R12,
20_memory.md R66), issue and completion of a command (70_reset_and_hazards.md R217, R218), taking an error (60_exceptions.md
R181), and the two resets (70_reset_and_hazards.md R211 to R213). -/

namespace Sys2Proof.Machine

open Sys2Proof

/-! ## Lists keyed by numbers -/

/-- The value stored at key `i`, if there is one. -/
def cellGet? {α : Type} : List (Nat × α) → Nat → Option α
  | [], _ => none
  | (a, b) :: m, i => if a = i then some b else cellGet? m i

/-- Values at consecutive keys from `a`. -/
def cellsFrom {α : Type} : Nat → List α → List (Nat × α)
  | _, [] => []
  | a, b :: bs => (a, b) :: cellsFrom (a + 1) bs

/-- Store values at consecutive keys from `a`: the cells below, the new cells, the cells above. -/
def cellsWrite {α : Type} (m : List (Nat × α)) (a : Nat) (bs : List α) : List (Nat × α) :=
  m.filter (fun c => decide (c.1 < a)) ++ cellsFrom a bs ++ m.filter (fun c => decide (a + bs.length ≤ c.1))

/-- The keys rise strictly. -/
def cellsRising {α : Type} : List (Nat × α) → Bool
  | [] => true
  | [_] => true
  | (a, _) :: (b, y) :: m => decide (a < b) && cellsRising ((b, y) :: m)

/-! ## The wire buffer -/

/-- The canonical form of WB: offsets strictly rising. An unlisted offset has no stored byte, so no entry can equal what it
reads as (notes/assumptions/11.md). -/
def Memory.wf (m : Memory) : Bool := cellsRising m

/-- Every listed byte is a byte of WB, which has `n` of them (10_state.md R35). -/
def Memory.within (m : Memory) (n : Nat) : Bool := m.all fun c => decide (c.1 < n)

/-- Store the bytes at consecutive offsets from `a`. -/
def Memory.writeBytes (m : Memory) (a : Nat) (bs : List Byte) : Memory := cellsWrite m a bs

/-- WB_CAP (00_scope.md R9), which CAP holds (10_state.md R33). -/
def State.wbCap (s : State) : Nat := s.cap.toNat

/-- WB[i]: the stored byte, or the free draw of a byte not stored since power-on (70_reset_and_hazards.md R211). -/
def State.wbByte (s : State) (i : Nat) : Byte := (cellGet? s.wb i).getD (Config.freeByte s.wbDraw i)

/-- The byte string WB[a], …, WB[a+n−1]. -/
def State.wbBytes (s : State) : Nat → Nat → List Byte
  | _, 0 => []
  | a, n + 1 => s.wbByte a :: s.wbBytes (a + 1) n

/-- A byte string read as one big-endian unsigned number (00_scope.md R12, R13). -/
def beNat : List Byte → Nat
  | [] => 0
  | b :: bs => b.toNat * 256 ^ bs.length + beNat bs

/-- The `n` bytes of `v`, most significant first (00_scope.md R12, R13). -/
def beBytes : Nat → Nat → List Byte
  | 0, _ => []
  | n + 1, v => BitVec.ofNat 8 (v / 256 ^ n) :: beBytes n v

/-- `MemRead(a, n)` (00_scope.md R12). -/
def State.memRead (s : State) (a n : Nat) : Nat := beNat (s.wbBytes a n)

/-- `MemWrite(a, n, v)` (00_scope.md R12). -/
def State.memWrite (s : State) (a n v : Nat) : State := { s with wb := Memory.writeBytes s.wb a (beBytes n v) }

/-- `CSRES <- v`. -/
def State.setCsres (s : State) (v : Half) : State := { s with csres := v }

/-! ## Issue, completion, errors -/

/-- Issue of the command word `c` (70_reset_and_hazards.md R217), one step: CMD and PHASE take `c`, STATUS is as
`Status.issued` says. -/
def State.issue (s : State) (c : Word) : State :=
  { s with cmd := c, phase := .busy c, status := s.status.issued }

/-- The STATUS and PHASE part of every completion (70_reset_and_hazards.md R218, 40_frame_codec.md R120). -/
def State.complete (s : State) (e : Err) (valid : Bool) : State :=
  { s with phase := .idle, status := s.status.completed e valid }

/-- `raise Err(code)` (60_exceptions.md R181): the completion writes only STATUS, with VALID 0. The block has no other
exception entry and no return from one (R192, R193). -/
def State.raiseErr (s : State) (e : Err) : State := s.complete e false

/-- The completion of a reserved command word: ILLEGAL_CMD and no other effect (60_exceptions.md R183). -/
def execIllegal (s : State) : Host.Outcome State Fault Refusal := .next (s.raiseErr .illegalCmd)

/-- A host write dropped because the block is busy: OVR is set and nothing else changes (20_memory.md R81). -/
def State.dropWrite (s : State) : State := { s with status := { s.status with ovr := true } }

/-- Take a draw number. -/
def State.draw (s : State) : State := { s with draws := s.draws + 1 }

/-! ## Resets -/

/-- Every register at its reset value of 10_state.md R45, PHASE idle, STATUS 0 (R46). CAP keeps WB_CAP; WB is not touched. -/
def State.resetRegisters (s : State) : State :=
  { s with
    seq := 0, ackno := 0, tsHi := 0, tsLo := 0, len := 0, flags := 0, cksum := 0, pad := 0, csres := 0, wblen := 0,
    cmd := 0, status := Status.cleared, phase := .idle }

/-- Power-on reset (70_reset_and_hazards.md R211): the registers, and every WB byte a new free draw. -/
def State.powerOnReset (s : State) : State :=
  { s.resetRegisters with wb := [], wbDraw := s.draws, draws := s.draws + 1 }

/-- The 24 header bytes of draw `n`. -/
def drawnHeader (n : Nat) : List Byte := (List.range Config.hdr).map (Config.freeByte n)

/-- WB[0..23] become unspecified, one draw per byte (70_reset_and_hazards.md R213). -/
def State.loseHeader (s : State) : State :=
  { s with wb := Memory.writeBytes s.wb 0 (drawnHeader s.draws), draws := s.draws + 1 }

/-- A soft reset now abandons an ENCODE (70_reset_and_hazards.md R213; notes/assumptions/13.md). -/
def State.encodeInProgress (s : State) : Bool :=
  match s.phase with
  | .idle => false
  | .busy c => isEncodeWord c

/-- Soft reset (70_reset_and_hazards.md R212): the registers; WB keeps its contents, but for WB[0..23] when the command it
abandons is ENCODE (R213). -/
def State.softReset (s : State) : State :=
  if s.encodeInProgress then s.loseHeader.resetRegisters else s.resetRegisters

end Sys2Proof.Machine
end

