-- ==== Sys2Proof/Machine/Checksum.lean ====
section
/-! DEFINITION. The checksum generator (41_checksum.md R150 to R154) and the meanings of CSUM (R155) and VERIFY (R156). -/

namespace Sys2Proof.Machine

open Sys2Proof

/-! ## The generator -/

/-- Word formation (41_checksum.md R150): the even-offset byte is the upper one; an odd last byte has a zero lower byte. -/
def wordsOf : List Byte → List Nat
  | [] => []
  | [b] => [b.toNat * 256]
  | b :: c :: r => (b.toNat * 256 + c.toNat) :: wordsOf r

/-- The exact sum S of the words of a byte string (41_checksum.md R151). -/
def wordSum (bs : List Byte) : Nat := (wordsOf bs).sum

/-- The fold of a sum (41_checksum.md R152). -/
def fold (S : Nat) : Nat := if S = 0 then 0 else 1 + (S - 1) % 65535

/-- The checksum of a byte string: 0xFFFF − fold(S) (41_checksum.md R153). -/
def checksum (bs : List Byte) : Half := BitVec.ofNat 16 (0xFFFF - fold (wordSum bs))

/-- `csum16(a, n)` (41_checksum.md R153). -/
def State.csum16 (s : State) (a n : Nat) : Half := checksum (s.wbBytes a n)

/-- One round of the iterative form (41_checksum.md R154): add a word, add a carry out of bit 15 back into bit 0. -/
def endAroundAdd (acc w : Nat) : Nat := if acc + w ≥ 0x10000 then acc + w - 0xFFFF else acc + w

/-- The iterative form over a list of words (41_checksum.md R154). -/
def endAroundSum (ws : List Nat) : Nat := ws.foldl endAroundAdd 0

/-- One fold of a wide accumulator: `(s & 0xFFFF) + (s >> 16)` (41_checksum.md R154, R161). -/
def foldOnce (S : Nat) : Nat := S % 65536 + S / 65536

/-! ## The commands -/

/-- CSUM (41_checksum.md R155). -/
def execCsum (s : State) : Host.Outcome State Fault Refusal :=
  if s.wbCap < s.wblen.toNat then .next (s.raiseErr .wblenOverCap)
  else .next ((s.setCsres (s.csum16 0 s.wblen.toNat)).complete .ok false)

/-- VERIFY (41_checksum.md R156). -/
def execVerify (s : State) : Host.Outcome State Fault Refusal :=
  if s.wbCap < s.wblen.toNat then .next (s.raiseErr .wblenOverCap)
  else .next ((s.setCsres (s.csum16 0 s.wblen.toNat)).complete .ok (s.csum16 0 s.wblen.toNat == 0))

end Sys2Proof.Machine
end

