-- ==== Sys2Proof/Machine/Operands.lean ====
section
/-! DEFINITION. Where an operand is: the register map (10_state.md R45), the targets of host accesses (20_memory.md R61 to
R63), and the packed length_and_flags field with the frame's byte layout (30_encoding.md R90 to R99). -/

namespace Sys2Proof.Machine

open Sys2Proof

/-! ## The register map -/

/-- The byte offset of a register (10_state.md R45). -/
def Reg.offset : Reg → Word
  | .ctrl => 0x00
  | .cmd => 0x04
  | .status => 0x08
  | .cap => 0x0C
  | .seq => 0x10
  | .ackno => 0x14
  | .tsHi => 0x18
  | .tsLo => 0x1C
  | .len => 0x20
  | .flags => 0x24
  | .cksum => 0x28
  | .pad => 0x2C
  | .csres => 0x30
  | .wblen => 0x34

/-- The registers in the order of the map. -/
def Reg.all : List Reg :=
  [.ctrl, .cmd, .status, .cap, .seq, .ackno, .tsHi, .tsLo, .len, .flags, .cksum, .pad, .csres, .wblen]

/-- The register at an offset, if there is one: the aligned words of 0x00 .. 0x37 (20_memory.md R61, R62). -/
def Reg.ofOffset (off : Word) : Option Reg := Reg.all.find? fun r => decide (Reg.offset r = off)

/-- The offset of WB[i] (20_memory.md R61). -/
def wbOffset (i : Nat) : Word := BitVec.ofNat 32 (Config.wbBase + i)

/-! ## Targets of host accesses -/

/-- What an admitted access reaches. -/
inductive Target where
  | reg (r : Reg)
  | wb (i : Nat)
deriving DecidableEq, Repr

/-- The target of a 32-bit access, none for a bus error: a register at its own offset (20_memory.md R62), or four bytes of
WB at a multiple of 4 (R63). -/
def target32 (cap : Nat) (off : Word) : Option Target :=
  match Reg.ofOffset off with
  | some r => some (.reg r)
  | none =>
    if Config.wbBase ≤ off.toNat ∧ (off.toNat - Config.wbBase) % 4 = 0 ∧ off.toNat - Config.wbBase + 3 < cap
    then some (.wb (off.toNat - Config.wbBase)) else none

/-- The target of an 8-bit access, none for a bus error: one byte of WB (20_memory.md R62, R63). -/
def target8 (cap : Nat) (off : Word) : Option Nat :=
  if Config.wbBase ≤ off.toNat ∧ off.toNat - Config.wbBase < cap then some (off.toNat - Config.wbBase) else none

/-- A read of this register returns its value also while busy (20_memory.md R65). -/
def Reg.readableWhileBusy : Reg → Bool
  | .ctrl | .cmd | .status | .cap => true
  | .seq | .ackno | .tsHi | .tsLo | .len | .flags | .cksum | .pad | .csres | .wblen => false

/-- A write to this register is accepted also while busy (20_memory.md R81). -/
def Reg.writableWhileBusy : Reg → Bool
  | .ctrl | .status => true
  | .cmd | .cap | .seq | .ackno | .tsHi | .tsLo | .len | .flags | .cksum | .pad | .csres | .wblen => false

/-- The value a register's read returns (10_state.md R22 to R37): CTRL reads 0, reserved bits read 0. -/
def State.readReg (s : State) : Reg → Word
  | .ctrl => 0
  | .cmd => s.cmd
  | .status => s.statusWord
  | .cap => s.cap
  | .seq => s.seq
  | .ackno => s.ackno
  | .tsHi => s.tsHi
  | .tsLo => s.tsLo
  | .len => s.len.setWidth 32
  | .flags => s.flags.setWidth 32
  | .cksum => s.cksum.setWidth 32
  | .pad => s.pad.setWidth 32
  | .csres => s.csres.setWidth 32
  | .wblen => s.wblen

/-- An accepted write of `v` to a register (10_state.md R22 to R37): reserved bits and read-only registers ignore it; CMD
issues, CTRL bit 0 resets, STATUS bit 3 clears OVR (20_memory.md R71). -/
def State.writeReg (s : State) (v : Word) : Reg → State
  | .ctrl => if v.getLsbD 0 then s.softReset else s
  | .cmd => s.issue v
  | .status => { s with status := s.status.written v }
  | .cap => s
  | .seq => { s with seq := v }
  | .ackno => { s with ackno := v }
  | .tsHi => { s with tsHi := v }
  | .tsLo => { s with tsLo := v }
  | .len => { s with len := v.setWidth 29 }
  | .flags => { s with flags := v.setWidth 3 }
  | .cksum => s
  | .pad => s
  | .csres => s
  | .wblen => { s with wblen := v }

/-! ## The frame's fields -/

/-- Packing (30_encoding.md R97): w = (zext_32(LEN) << 3) | FLAGS. -/
def packLenFlags (l : BitVec 29) (f : BitVec 3) : Word := (l.setWidth 32 <<< 3) ||| f.setWidth 32

/-- Length extraction (30_encoding.md R95): L = w >> 3, a logical shift. -/
def lenOf (w : Word) : BitVec 29 := (w >>> 3).setWidth 29

/-- Flag extraction (30_encoding.md R96): F = w & 0x7. -/
def flagsOf (w : Word) : BitVec 3 := (w &&& 0x7).setWidth 3

/-- The 64-bit timestamp TS = TS_HI ‖ TS_LO (10_state.md R26). -/
def State.timestamp (s : State) : BitVec 64 := s.tsHi ++ s.tsLo

/-- The bytes of a frame (30_encoding.md R90): the 24-byte header, every field big-endian, then the payload. -/
def frameBytes (f : Frame) : List Byte :=
  beBytes 4 f.seq.toNat ++ beBytes 4 f.ack.toNat ++ beBytes 8 f.timestamp.toNat
    ++ beBytes 4 (packLenFlags f.len f.flags).toNat ++ beBytes 2 f.checksum.toNat ++ beBytes 2 f.padding.toNat ++ f.payload

/-- The frame that ENCODE's operands describe (40_frame_codec.md R121), with checksum field `k`: the field registers, the
zero padding, and the payload WB[24 .. 24+LEN−1]. -/
def State.frameToSend (s : State) (k : Half) : Frame where
  seq := s.seq
  ack := s.ackno
  timestamp := s.timestamp
  len := s.len
  flags := s.flags
  checksum := k
  padding := 0
  payload := s.wbBytes Config.hdr s.len.toNat

end Sys2Proof.Machine
end

