-- ==== Sys2Proof/Machine/Codec.lean ====
section
/-! DEFINITION. The meanings of ENCODE (40_frame_codec.md R121) and DECODE (R123). -/

namespace Sys2Proof.Machine

open Sys2Proof

/-- ENCODE's writes of WB before the checksum is computed: the header with zero checksum field and zero padding. -/
def State.writeZeroedHeader (s : State) : State :=
  ((((((s.memWrite 0 4 s.seq.toNat).memWrite 4 4 s.ackno.toNat).memWrite 8 4 s.tsHi.toNat).memWrite 12 4 s.tsLo.toNat).memWrite
    16 4 (packLenFlags s.len s.flags).toNat).memWrite 20 2 0).memWrite 22 2 0

/-- The checksum ENCODE computes, over header and zero padding and payload (40_frame_codec.md R121). DEDUCED
(notes/assumptions/14.md): after a DECODE of a valid frame with padding 0xFFFF it can be the received checksum, against the
last sentence of R125, which R121, 41_checksum.md R159 (b) and the vectors T4 and T19d rule out for that padding. -/
def State.encodeChecksum (s : State) : Half := s.writeZeroedHeader.csum16 0 (Config.hdr + s.len.toNat)

/-- ENCODE's writes: the header with its checksum, CKSUM, PAD and WBLEN. -/
def State.writeFrame (s : State) : State :=
  { s.writeZeroedHeader.memWrite 20 2 s.encodeChecksum.toNat with
    cksum := s.encodeChecksum, pad := 0, wblen := BitVec.ofNat 32 (Config.hdr + s.len.toNat) }

/-- ENCODE (40_frame_codec.md R121). -/
def execEncode (s : State) : Host.Outcome State Fault Refusal :=
  if s.wbCap < Config.hdr + s.len.toNat then .next (s.raiseErr .lenOverCap)
  else .next (s.writeFrame.complete .ok false)

/-- The length_and_flags word of the frame in WB (30_encoding.md R94). -/
def State.wireLenFlags (s : State) : Word := BitVec.ofNat 32 (s.memRead 16 4)

/-- DECODE's writes: the header fields of the frame in WB. -/
def State.readFrame (s : State) : State :=
  { s with
    seq := BitVec.ofNat 32 (s.memRead 0 4)
    ackno := BitVec.ofNat 32 (s.memRead 4 4)
    tsHi := BitVec.ofNat 32 (s.memRead 8 4)
    tsLo := BitVec.ofNat 32 (s.memRead 12 4)
    len := lenOf s.wireLenFlags
    flags := flagsOf s.wireLenFlags
    cksum := BitVec.ofNat 16 (s.memRead 20 2)
    pad := BitVec.ofNat 16 (s.memRead 22 2) }

/-- DECODE (40_frame_codec.md R123), its checks in the order of 60_exceptions.md R191. -/
def execDecode (s : State) : Host.Outcome State Fault Refusal :=
  if s.wbCap < s.wblen.toNat then .next (s.raiseErr .wblenOverCap)
  else if s.wblen.toNat < Config.hdr then .next (s.raiseErr .shortHeader)
  else if s.wblen.toNat < Config.hdr + (lenOf s.wireLenFlags).toNat then .next (s.raiseErr .shortPayload)
  else .next (s.readFrame.complete .ok false)

end Sys2Proof.Machine
end

