-- ==== Sys2Proof/Machine/Bus.lean ====
section
/-! DEFINITION. The host's bus accesses (20_memory.md R60 to R65, R81). `none` is a bus error: nothing changes (R64). A read
answers its value and the state after it, which differs from the state before only by the draw it took while busy. -/

namespace Sys2Proof.Machine

open Sys2Proof

/-- `Read(32, off)`. -/
def State.busRead32 (s : State) (off : Word) : Option (Word × State) :=
  match target32 s.wbCap off with
  | none => none
  | some (.reg r) =>
    if s.busy && !Reg.readableWhileBusy r then some (Config.freeWord s.draws, s.draw) else some (s.readReg r, s)
  | some (.wb i) =>
    if s.busy then some (Config.freeWord s.draws, s.draw) else some (BitVec.ofNat 32 (s.memRead i 4), s)

/-- `Read(8, off)`. -/
def State.busRead8 (s : State) (off : Word) : Option (Byte × State) :=
  match target8 s.wbCap off with
  | none => none
  | some i => if s.busy then some (Config.freeByte s.draws i, s.draw) else some (s.wbByte i, s)

/-- `Write(32, off, v)`. -/
def State.busWrite32 (s : State) (off : Word) (v : Word) : Option State :=
  match target32 s.wbCap off with
  | none => none
  | some (.reg r) => if s.busy && !Reg.writableWhileBusy r then some s.dropWrite else some (s.writeReg v r)
  | some (.wb i) => if s.busy then some s.dropWrite else some (s.memWrite i 4 v.toNat)

/-- `Write(8, off, v)`. -/
def State.busWrite8 (s : State) (off : Word) (v : Byte) : Option State :=
  match target8 s.wbCap off with
  | none => none
  | some i => if s.busy then some s.dropWrite else some (s.memWrite i 1 v.toNat)

end Sys2Proof.Machine
end

