-- ==== Sys2Proof/Machine/HostProgram.lean ====
section
/-! DEFINITION. The HOST agent (30_encoding.md R108): what one line of its program does, and the pseudo-operations (R109) and
boot order (70_reset_and_hazards.md R216) as lists of lines. -/

namespace Sys2Proof.Machine

open Sys2Proof

/-! ## One line -/

/-- Whether a condition holds over the values read so far; none when its name has not been read. -/
def condHolds (vals : List (Nat × Word)) (c : Cond) : Option Bool :=
  match cellGet? vals c.name with
  | none => none
  | some v => some (v.toNat / 2 ^ c.lo % 2 ^ (c.hi - c.lo + 1) == c.value)

/-- The line of a label. DESIGN CHOICE (notes/assumptions/9.md): where a label stands twice, which 30_encoding.md R108 gives
no meaning, this is its first line; `programWf` calls such a program ill formed. -/
def labelLine : List HostOp → Nat → Option Nat
  | [], _ => none
  | op :: r, l => if op = .label l then some 0 else (labelLine r l).map (· + 1)

/-- Go on to the next line. -/
def State.hostNext (s : State) : State := { s with host := { s.host with line := s.host.line + 1 } }

/-- Name a value read. -/
def State.hostBind (s : State) (n : Nat) (v : Word) : State :=
  { s with host := { s.host with vals := cellsWrite s.host.vals n [v] } }

/-- Branch to a label. -/
def State.hostGoto (s : State) (l : Nat) : Host.Outcome State Fault Refusal :=
  match labelLine s.host.prog l with
  | none => .refused (.undefinedLabel l)
  | some n => .next { s with host := { s.host with line := n } }

/-- A branch that is taken when its condition equals `want`. -/
def State.hostBranch (s : State) (c : Cond) (want : Bool) (l : Nat) : Host.Outcome State Fault Refusal :=
  match condHolds s.host.vals c with
  | none => .refused (.unreadName c.name)
  | some b => if b == want then s.hostGoto l else .next s.hostNext

/-- A write line: the access, then the next line; a bus error faults (20_memory.md R64). -/
def hostWrote (a : Access) : Option State → Host.Outcome State Fault Refusal
  | none => .fault (.busError a)
  | some t => .next t.hostNext

/-- A read line: the access, its value named, then the next line; a bus error faults. -/
def hostRead (a : Access) (n : Nat) : Option (Word × State) → Host.Outcome State Fault Refusal
  | none => .fault (.busError a)
  | some (v, t) => .next (t.hostBind n v).hostNext

/-- One POLL read (30_encoding.md R108): the same line again while BUSY = 1, else the value named and the next line. -/
def hostPolled (a : Access) (n : Nat) : Option (Word × State) → Host.Outcome State Fault Refusal
  | none => .fault (.busError a)
  | some (v, t) => if v.getLsbD 0 then .next t else .next (t.hostBind n v).hostNext

/-- What one line of the host program does (30_encoding.md R108). HALT stays where it is. -/
def hostLine (op : HostOp) (s : State) : Host.Outcome State Fault Refusal :=
  match op with
  | .wr32 off v => hostWrote (.write32 off v) (s.busWrite32 off v)
  | .wr8 off v => hostWrote (.write8 off v) (s.busWrite8 off v)
  | .rd32 off n => hostRead (.read32 off) n (s.busRead32 off)
  | .rd8 off n => hostRead (.read8 off) n ((s.busRead8 off).map fun r => (r.1.setWidth 32, r.2))
  | .other size off => .fault (.busError (.other size off))
  | .poll n => hostPolled (.read32 (Reg.offset .status)) n (s.busRead32 (Reg.offset .status))
  | .beq c l => s.hostBranch c true l
  | .bne c l => s.hostBranch c false l
  | .label _ => .next s.hostNext
  | .halt => .next s

/-- The line the host is at; past its last line a program is at HALT. -/
def State.hostOp (s : State) : HostOp := (s.host.prog[s.host.line]?).getD .halt

/-- The HOST's turn: one line. -/
def hostTurn (s : State) : Host.Outcome State Fault Refusal := hostLine s.hostOp s

/-- The end of a run (70_reset_and_hazards.md R227): the host at HALT and PHASE = IDLE. -/
def State.runEnded (s : State) : Bool := decide (s.hostOp = .halt) && !s.busy

/-! ## Pseudo-operations (30_encoding.md R109) -/

/-- `DO op` for any word `op`, a command's or a reserved one (30_encoding.md R109; 95_test_vectors.md P4): write it to CMD,
then POLL into `name`. -/
def doOp (op : Word) (name : Nat) : List HostOp := [.wr32 (Reg.offset .cmd) op, .poll name]

/-- `SETHDR s, a, t, l, f`. -/
def setHdr (sq a : Word) (t : BitVec 64) (l f : Word) : List HostOp :=
  [.wr32 (Reg.offset .seq) sq, .wr32 (Reg.offset .ackno) a, .wr32 (Reg.offset .tsHi) (t.extractLsb' 32 32),
    .wr32 (Reg.offset .tsLo) (t.extractLsb' 0 32), .wr32 (Reg.offset .len) l, .wr32 (Reg.offset .flags) f]

/-- `WR8 WB+a+k, bytes[k]` for each k. -/
def writeWbBytes (a : Nat) : List Byte → List HostOp
  | [] => []
  | b :: bs => .wr8 (wbOffset a) b :: writeWbBytes (a + 1) bs

/-- `BUILD s, a, t, f, bytes`. -/
def build (sq a : Word) (t : BitVec 64) (f : Word) (bs : List Byte) (name : Nat) : List HostOp :=
  writeWbBytes Config.hdr bs ++ setHdr sq a t (BitVec.ofNat 32 bs.length) f ++ doOp (encode .encode) name

/-- `RECV bytes`. -/
def recv (bs : List Byte) : List HostOp :=
  writeWbBytes 0 bs ++ [.wr32 (Reg.offset .wblen) (BitVec.ofNat 32 bs.length)]

/-- STATUS.VALID == 0 over the value named `name`. -/
def notValid (name : Nat) : Cond := { name := name, hi := 2, lo := 2, value := 0 }

/-- `CHECK`: `DO VERIFY`, and `DO DECODE` if VALID = 1; `skip` labels the line after it. -/
def check (name skip : Nat) : List HostOp :=
  doOp (encode .verify) name ++ [.beq (notValid name) skip] ++ doOp (encode .decode) name ++ [.label skip]

/-- The host's boot step 2 (70_reset_and_hazards.md R216): read CAP into `name` and clear OVR. -/
def bootProgram (name : Nat) : List HostOp := [.rd32 (Reg.offset .cap) name, .wr32 (Reg.offset .status) 8]

end Sys2Proof.Machine
end

