-- ==== Sys2Proof/Machine/Agents.lean ====
section
/-! DEFINITION. The turns of the agents (00_scope.md R7): the CODEC's enabled step (70_reset_and_hazards.md R218) and the
choice of who moves next (notes/assumptions/5.md). -/

namespace Sys2Proof.Machine

open Sys2Proof

/-- The CODEC's turn: with PHASE = BUSY(c) its one enabled step, the completion of c; a word that decodes to no command
completes with ILLEGAL_CMD (60_exceptions.md R183). With PHASE = IDLE it has no step, and nothing changes. -/
def codecTurn (s : State) : Host.Outcome State Fault Refusal :=
  match s.phase with
  | .idle => .next s
  | .busy c =>
    match decode c with
    | .ok i => exec i s
    | .error _ => execIllegal s

/-- Who moves next: the first scheduled turn; with none scheduled, the CODEC while a command is in progress (weak fairness,
70_reset_and_hazards.md R219), else the HOST. -/
def State.nextTurn (s : State) : Turn :=
  match s.turns with
  | t :: _ => t
  | [] => if s.busy then .codec else .host

/-- The state with its first scheduled turn taken off. -/
def State.popTurn (s : State) : State := { s with turns := s.turns.tail }

/-- One turn of an agent or of the reset input. -/
def runTurn (t : Turn) (s : State) : Host.Outcome State Fault Refusal :=
  match t with
  | .host => hostTurn s
  | .codec => codecTurn s
  | .powerOn => .next s.powerOnReset

/-- The command word `c` in progress and the CODEC's turn next: the issue of R217 with the schedule that runs it at once. -/
def State.fetchNow (s : State) (c : Word) : State := { s.issue c with turns := .codec :: s.turns }

end Sys2Proof.Machine
end

