-- ==== Sys2Proof/Machine/Step.lean ====
section
/-! DEFINITION. One step of the machine, and the host's `withFetchWord`. -/

namespace Sys2Proof.Machine

open Sys2Proof

/-- One step: the next turn, run on the state with that turn taken off the schedule. -/
def step (s : State) : Host.Outcome State Fault Refusal := runTurn s.nextTurn s.popTurn

/-- The instruction word `w` put where `step` takes its next command from: PHASE (10_state.md R21, R36, R43), as a host write
of it to CMD puts it there (70_reset_and_hazards.md R217), with the CODEC to move next (notes/assumptions/6.md). -/
def State.withFetchWord (s : State) (nbits w : Nat) : State := s.fetchNow (BitVec.ofNat 32 (w % 2 ^ nbits))

end Sys2Proof.Machine
end

