-- ==== Sys2Proof/WellFormed.lean ====
section
/-! DEFINITION. The checks on terms that their types do not make: the capacity (00_scope.md R9), the frame
(30_encoding.md R100), conditions and host programs (30_encoding.md R108). A command has no operand, so every `Instr` is well
formed. -/

namespace Sys2Proof

/-- A command has no operand field (30_encoding.md R106): nothing can be ill formed. -/
def Instr.wf : Instr → Bool
  | .encode => true
  | .decode => true
  | .verify => true
  | .csum => true

/-- 24 ≤ WB_CAP ≤ 2^31 (00_scope.md R9). -/
def capWf (n : Nat) : Bool := decide (Config.minCap ≤ n) && decide (n ≤ Config.maxCap)

/-- "declared payload length always equals the actual payload byte count" (30_encoding.md R100). -/
def Frame.wf (f : Frame) : Bool := f.payload.length == f.len.toNat

/-- A condition names bits of a 32-bit value and a value of that width (00_scope.md R11). -/
def Cond.wf (c : Cond) : Bool :=
  decide (c.lo ≤ c.hi) && decide (c.hi < 32) && decide (c.value < 2 ^ (c.hi - c.lo + 1))

/-- The labels a program defines, in line order. -/
def programLabels : List HostOp → List Nat
  | [] => []
  | .label l :: r => l :: programLabels r
  | _ :: r => programLabels r

/-- The names a program gives to values it reads. -/
def programNames : List HostOp → List Nat
  | [] => []
  | .rd32 _ n :: r => n :: programNames r
  | .rd8 _ n :: r => n :: programNames r
  | .poll n :: r => n :: programNames r
  | _ :: r => programNames r

/-- A line's branch is well formed: its condition is, its name is one the program reads, its label is defined. -/
def HostOp.wf (labels names : List Nat) : HostOp → Bool
  | .beq c l => c.wf && names.contains c.name && labels.contains l
  | .bne c l => c.wf && names.contains c.name && labels.contains l
  | .wr32 .. | .wr8 .. | .rd32 .. | .rd8 .. | .other .. | .poll .. | .label .. | .halt => true

/-- A host program is well formed (30_encoding.md R108): no label stands twice, and every branch is well formed. -/
def programWf (p : List HostOp) : Bool :=
  decide (programLabels p).Nodup && p.all (HostOp.wf (programLabels p) (programNames p))

end Sys2Proof
end

