-- ==== Sys2Proof/Safety.lean ====
section
/-! DEFINITION. What claims call safe: the invariant of the machine, every part of it a rule of the spec about all reachable
states, and a step that stops for no reason. -/

namespace Sys2Proof.Machine

open Sys2Proof

/-- The invariant that every step keeps. -/
structure State.Inv (s : State) : Prop where
  /-- 24 ≤ WB_CAP ≤ 2^31 (00_scope.md R9). -/
  capacity : capWf s.wbCap = true
  /-- WB is in its canonical form (notes/assumptions/11.md). -/
  canonical : Memory.wf s.wb = true
  /-- Every stored byte is a byte of WB (10_state.md R35). -/
  inWb : Memory.within s.wb s.wbCap = true
  /-- The draw of the unwritten bytes has been taken, so a later draw is another one (notes/assumptions/2.md). -/
  drawTaken : s.wbDraw < s.draws
  /-- ERR is one of the codes 0 to 5 (60_exceptions.md R182: 6 to 15 are never reported). -/
  errCode : s.status.err.toNat ≤ 5
  /-- PHASE = BUSY(c) holds the word in CMD, and DONE = 0 (70_reset_and_hazards.md R217; 20_memory.md R76, R81). -/
  busyWord : ∀ c, s.phase = .busy c → c = s.cmd ∧ s.status.done = false
  /-- DONE = 0 means VALID = 0 and ERR = 0 (70_reset_and_hazards.md R217; 10_state.md R46). -/
  notDone : s.status.done = false → s.status.valid = false ∧ s.status.err = 0
  /-- "DONE = 0 and BUSY = 0 together mean no command has run since reset" (10_state.md R39): CMD and the registers only
  commands write are at their reset values. -/
  neverRun : s.status.done = false → s.busy = false → s.cmd = 0 ∧ s.cksum = 0 ∧ s.pad = 0 ∧ s.csres = 0
  /-- VALID = 1 describes a completed VERIFY without error (10_state.md R40). -/
  validWord : s.status.valid = true → s.cmd = encode .verify ∧ s.status.err = 0
  /-- "After a VERIFY, CSRES = 0x0000 exactly when the buffer is valid" (10_state.md R31). -/
  verifyResult : s.status.done = true → s.status.err = 0 → s.cmd = encode .verify → (s.status.valid = true ↔ s.csres = 0)
  /-- Code 1 is reported exactly for the reserved words (60_exceptions.md R183; 30_encoding.md R110). -/
  illegalWord : s.status.done = true → (s.status.err = Err.illegalCmd.code ↔ ∀ i, s.cmd ≠ encode i)
  /-- Code 2 comes from DECODE, VERIFY and CSUM only (60_exceptions.md R182, R184). -/
  overCapWord : s.status.err = Err.wblenOverCap.code → s.cmd = encode .decode ∨ s.cmd = encode .verify ∨ s.cmd = encode .csum
  /-- Codes 3 and 4 come from DECODE only (60_exceptions.md R185, R186). -/
  malformedWord : s.status.err = Err.shortHeader.code ∨ s.status.err = Err.shortPayload.code → s.cmd = encode .decode
  /-- Code 5 comes from ENCODE only (60_exceptions.md R187). -/
  lenOverCapWord : s.status.err = Err.lenOverCap.code → s.cmd = encode .encode

/-- The next step of `s` stops neither with a fault nor with a refusal. -/
def State.goesOn (s : State) : Prop := ∃ t, step s = .next t

end Sys2Proof.Machine
end

