-- ==== Sys2Proof/Certificates/Slice0/Obligations.lean ====
section
/-! DEFINITION. The statements for the provers. Each docstring names the rule of the spec it formalises. Free values
(`Config.freeByte`, `Config.freeWord`) have no value anyone can use: a statement that names one holds whatever it is. -/

open Sys2Proof Sys2Proof.Machine

/-! ## Words the statements use, written from the rules and not from the model's own operations -/

/-- The state after a failed command (60_exceptions.md R181): STATUS and PHASE are all that changes. -/
def Sys2Proof.Claims.failed (s : State) (code : BitVec 4) : State :=
  { s with phase := .idle, status := { done := true, valid := false, ovr := s.status.ovr, err := code } }

/-- The STATUS of a command that completed without error (40_frame_codec.md R120). -/
def Sys2Proof.Claims.okStatus (s : State) (valid : Bool) : Status :=
  { done := true, valid := valid, ovr := s.status.ovr, err := 0 }

/-- Four bytes of WB as one number, the lowest offset on top (20_memory.md R66). -/
def Sys2Proof.Claims.word4 (s : State) (a : Nat) : Word :=
  s.wbByte a ++ s.wbByte (a + 1) ++ s.wbByte (a + 2) ++ s.wbByte (a + 3)

/-- Two bytes of WB as one number, the lowest offset on top (20_memory.md R66). -/
def Sys2Proof.Claims.word2 (s : State) (a : Nat) : Half := s.wbByte a ++ s.wbByte (a + 1)

/-- The length field of the frame in WB: w[31:3] of bytes 16..19 (30_encoding.md R95). -/
def Sys2Proof.Claims.wireLen (s : State) : BitVec 29 := (Sys2Proof.Claims.word4 s 16).extractLsb' 3 29

/-- The sum S of 41_checksum.md R150 and R151 in the rule's own form: w_j for j below ⌈n/2⌉ over bytes given by offset. -/
def Sys2Proof.Claims.ruleSum (b : Nat → Byte) (n : Nat) : Nat :=
  ((List.range ((n + 1) / 2)).map fun j =>
    (b (2 * j)).toNat * 256 + (if 2 * j + 1 < n then (b (2 * j + 1)).toNat else 0)).sum

/-- The result of the generator over WB[0 .. n−1] in the form of 41_checksum.md R152 and R153. -/
def Sys2Proof.Claims.ruleChecksum (s : State) (n : Nat) : Half :=
  if Sys2Proof.Claims.ruleSum s.wbByte n = 0 then 0xFFFF
  else BitVec.ofNat 16 (0xFFFF - (1 + (Sys2Proof.Claims.ruleSum s.wbByte n - 1) % 65535))

/-- The little-endian words of 41_checksum.md R160: an odd last byte is the lower byte. -/
def Sys2Proof.Claims.littleWords : List Byte → List Nat
  | [] => []
  | [b] => [b.toNat]
  | b :: c :: r => (c.toNat * 256 + b.toNat) :: Sys2Proof.Claims.littleWords r

/-- The checksum computed over little-endian words (41_checksum.md R160). -/
def Sys2Proof.Claims.littleChecksum (bs : List Byte) : Nat := 0xFFFF - fold (Sys2Proof.Claims.littleWords bs).sum

/-- The host's next turn is a write to CTRL with bit 0 = 1 (10_state.md R34). -/
def Sys2Proof.Claims.softResetNext (s : State) : Prop :=
  s.nextTurn = .host ∧ ∃ v, s.hostOp = .wr32 0x00 v ∧ v.getLsbD 0 = true

/-- What ENCODE reads (40_frame_codec.md R121): the field registers, LEN, FLAGS, WB_CAP and the payload bytes. -/
def Sys2Proof.Claims.sameEncodeInputs (s r : State) : Prop :=
  s.seq = r.seq ∧ s.ackno = r.ackno ∧ s.tsHi = r.tsHi ∧ s.tsLo = r.tsLo ∧ s.len = r.len ∧ s.flags = r.flags ∧ s.cap = r.cap ∧
    ∀ i, 24 ≤ i → i < 24 + s.len.toNat → s.wbByte i = r.wbByte i

open Sys2Proof.Claims

/-! ## Command words and the step -/

/-- A few words written out from 30_encoding.md R107. -/
def Obligations.CommandWordsDecode : Prop :=
  decode 0x00000001 = .ok .encode ∧ decode 0x00000002 = .ok .decode ∧ decode 0x00000003 = .ok .verify ∧
  decode 0x00000004 = .ok .csum ∧ decode 0x00000000 = .error .reservedOpcode ∧ decode 0x00000007 = .error .reservedOpcode ∧
  decode 0x00000009 = .error .reservedBits

/-- Decode and encode agree (30_encoding.md R106, R107): every command's word decodes to it and is a well-formed word, and
no other word decodes to a command. -/
def Obligations.DecodeEncodeAgree : Prop :=
  (∀ i : Instr, i.wf = true → decode (encode i) = .ok i ∧ decodeTableWord 32 (encode i).toNat = some i) ∧
  ∀ (c : Word) (i : Instr), decode c = .ok i → c = encode i

/-- 30_encoding.md R107: if c[31:3] ≠ 0 the word is illegal, otherwise OP selects the row; every word that names none of the
four commands completes with ILLEGAL_CMD and no other effect. -/
def Obligations.OpcodeMapSelects : Prop :=
  (∀ c : Word, c.extractLsb' 3 29 ≠ 0 → ∃ r, decode c = .error r) ∧
  (∀ c : Word, c.extractLsb' 3 29 = 0 →
    (c.extractLsb' 0 3 = 0b001 → decode c = .ok .encode) ∧ (c.extractLsb' 0 3 = 0b010 → decode c = .ok .decode) ∧
    (c.extractLsb' 0 3 = 0b011 → decode c = .ok .verify) ∧ (c.extractLsb' 0 3 = 0b100 → decode c = .ok .csum) ∧
    (c.extractLsb' 0 3 = 0b000 ∨ c.extractLsb' 0 3 = 0b101 ∨ c.extractLsb' 0 3 = 0b110 ∨ c.extractLsb' 0 3 = 0b111 →
      ∃ r, decode c = .error r)) ∧
  ∀ (s : State) (c : Word), s.phase = .busy c → c ≠ 1 → c ≠ 2 → c ≠ 3 → c ≠ 4 → codecTurn s = .next (failed s 1)

/-- A step runs the decoded command: when PHASE = BUSY(c), the CODEC moves next and c decodes to a command, the step is that
command's meaning on the state with the turn taken off the schedule; and `withFetchWord` places a command so that the next
step runs it, as issued (70_reset_and_hazards.md R217, R218). -/
def Obligations.StepRunsDecodedCommand : Prop :=
  (∀ (s : State) (c : Word) (i : Instr), s.phase = .busy c → s.nextTurn = .codec → decode c = .ok i →
    step s = exec i { s with turns := s.turns.tail }) ∧
  (∀ (s : State) (i : Instr), step (s.withFetchWord 32 (encode i).toNat) = exec i (s.issue (encode i))) ∧
  ∀ s : State, s.phase = .idle → s.nextTurn = .codec → step s = .next { s with turns := s.turns.tail }

/-- 60_exceptions.md R183: a reserved word goes through issue and completion like any other, and writes only STATUS; CMD keeps
the illegal word. -/
def Obligations.ReservedWordCompletesIllegal : Prop :=
  ∀ (s : State) (c : Word), s.busy = false →
    (c.extractLsb' 3 29 ≠ 0 ∨ c.extractLsb' 0 3 = 0b000 ∨ c.extractLsb' 0 3 = 0b101 ∨ c.extractLsb' 0 3 = 0b110 ∨
      c.extractLsb' 0 3 = 0b111) →
    ∃ u, s.busWrite32 0x04 c = some u ∧ u.busy = true ∧ u.phase = .busy c ∧ u.status.done = false ∧
      codecTurn u = .next (failed { s with cmd := c } 1)

/-! ## ENCODE -/

/-- 40_frame_codec.md R121: ENCODE is the word 0x0000_0001; with room for the frame it completes, WB holds the frame of the operands with its checksum,
CKSUM, PAD and WBLEN are written, and nothing else changes; without room it fails with LEN_OVER_CAP and only STATUS
changes. -/
def Obligations.EncodeWritesFrame : Prop :=
  encode .encode = 0x00000001 ∧ ∀ s : State,
    (24 + s.len.toNat ≤ s.cap.toNat → ∃ t, exec .encode s = .next t ∧
      t.wbBytes 0 (24 + s.len.toNat) = frameBytes (s.frameToSend t.cksum) ∧
      t.cksum = checksum (frameBytes (s.frameToSend 0)) ∧ t.pad = 0 ∧ t.wblen.toNat = 24 + s.len.toNat ∧
      t.status = okStatus s false ∧ t.phase = .idle ∧
      (∀ i, 24 ≤ i → t.wbByte i = s.wbByte i) ∧
      t.seq = s.seq ∧ t.ackno = s.ackno ∧ t.tsHi = s.tsHi ∧ t.tsLo = s.tsLo ∧ t.len = s.len ∧ t.flags = s.flags ∧
      t.csres = s.csres ∧ t.cap = s.cap ∧ t.cmd = s.cmd ∧ t.host = s.host ∧ t.turns = s.turns) ∧
    (s.cap.toNat < 24 + s.len.toNat → exec .encode s = .next (failed s 5))

/-- 60_exceptions.md R187: ENCODE reports LEN_OVER_CAP (code 5) exactly when 24 + LEN > WB_CAP. -/
def Obligations.LenOverCapExactly : Prop :=
  ∀ s : State, ∃ t, exec .encode s = .next t ∧ (t.status.err = 5 ↔ s.cap.toNat < 24 + s.len.toNat) ∧
    (t.status.err = 5 → t = failed s 5)

/-- 40_frame_codec.md R122: ENCODE's results depend only on its operands: two states that agree on them end with the same
error code and, when there is room, the same frame, CKSUM, PAD and WBLEN. -/
def Obligations.EncodeIsDeterministic : Prop :=
  ∀ s r t u : State, sameEncodeInputs s r → exec .encode s = .next t → exec .encode r = .next u →
    t.status.err = u.status.err ∧
    (t.status.err = 0 → t.cksum = u.cksum ∧ t.pad = u.pad ∧ t.wblen = u.wblen ∧
      ∀ i, i < 24 + s.len.toNat → t.wbByte i = u.wbByte i)

/-- 20_memory.md R66: ENCODE puts the most significant 8 bits of every multi-byte field at its lowest offset. -/
def Obligations.EncodedFieldsAreBigEndian : Prop :=
  ∀ s : State, 24 + s.len.toNat ≤ s.cap.toNat → ∃ t, exec .encode s = .next t ∧
    word4 t 0 = s.seq ∧ word4 t 4 = s.ackno ∧ word4 t 8 = s.tsHi ∧ word4 t 12 = s.tsLo ∧
    word4 t 16 = s.len ++ s.flags ∧ word2 t 20 = t.cksum ∧ word2 t 22 = 0 ∧
    t.wbByte 0 = s.seq.extractLsb' 24 8 ∧ t.wbByte 3 = s.seq.extractLsb' 0 8 ∧
    t.wbByte 8 = s.timestamp.extractLsb' 56 8 ∧ t.wbByte 15 = s.timestamp.extractLsb' 0 8 ∧
    t.wbByte 20 = t.cksum.extractLsb' 8 8 ∧ t.wbByte 21 = t.cksum.extractLsb' 0 8

/-- 41_checksum.md R162: a computed checksum of 0x0000 (the fold is 0xFFFF) is written to the frame as 0x0000. -/
def Obligations.NoZeroSubstitution : Prop :=
  ∀ s : State, 24 + s.len.toNat ≤ s.cap.toNat → fold (wordSum (frameBytes (s.frameToSend 0))) = 0xFFFF →
    ∃ t, exec .encode s = .next t ∧ t.cksum = 0 ∧ t.wbByte 20 = 0 ∧ t.wbByte 21 = 0

/-! ## DECODE -/

/-- 40_frame_codec.md R123: DECODE is the word 0x0000_0002; the checks in their order, each ending in a failure that changes only STATUS; else the field
registers, CKSUM and PAD take the frame's fields, and nothing else changes. -/
def Obligations.DecodeReadsFrame : Prop :=
  encode .decode = 0x00000002 ∧ ∀ s : State, exec .decode s = .next (
    if s.cap.toNat < s.wblen.toNat then failed s 2
    else if s.wblen.toNat < 24 then failed s 3
    else if s.wblen.toNat < 24 + (wireLen s).toNat then failed s 4
    else { s with
      seq := word4 s 0, ackno := word4 s 4, tsHi := word4 s 8, tsLo := word4 s 12,
      len := wireLen s, flags := (word4 s 16).extractLsb' 0 3, cksum := word2 s 20, pad := word2 s 22,
      status := okStatus s false, phase := .idle })

/-- 60_exceptions.md R185, R186: the two cases of MalformedFrameError: SHORT_HEADER exactly for a buffer shorter than the
header, SHORT_PAYLOAD exactly for one shorter than header and declared payload (within WB_CAP, which R184 checks first). -/
def Obligations.MalformedFrameExactly : Prop :=
  ∀ s : State, s.wblen.toNat ≤ s.cap.toNat → ∃ t, exec .decode s = .next t ∧
    (t.status.err = 3 ↔ s.wblen.toNat < 24) ∧
    (t.status.err = 4 ↔ 24 ≤ s.wblen.toNat ∧ s.wblen.toNat < 24 + (wireLen s).toNat) ∧
    (t.status.err = 3 ∨ t.status.err = 4 → t = failed s t.status.err)

/-- 40_frame_codec.md R124, the headline of the codec: DECODE after ENCODE, with only DECODE's issue between, completes
without error and gives every header field and the payload back. -/
def Obligations.DecodeAfterEncodeRoundTrip : Prop :=
  ∀ s t : State, 24 + s.len.toNat ≤ s.cap.toNat → exec .encode s = .next t →
    ∃ u, exec .decode (t.issue 2) = .next u ∧ u.status = okStatus t false ∧
      u.seq = s.seq ∧ u.ackno = s.ackno ∧ u.tsHi ++ u.tsLo = s.tsHi ++ s.tsLo ∧ u.len = s.len ∧ u.flags = s.flags ∧
      (∀ i, 24 ≤ i → i < 24 + s.len.toNat → u.wbByte i = s.wbByte i) ∧ u.cksum = t.cksum ∧ u.pad = 0

/-- 40_frame_codec.md R125, first sentence: ENCODE after a DECODE of a frame with zero padding and the checksum ENCODE would
compute rewrites WB[0..23] with the same bytes and sets WBLEN = 24 + LEN. -/
def Obligations.ReencodeRewritesSameHeader : Prop :=
  ∀ s t : State, exec .decode s = .next t → t.status.err = 0 → word2 s 22 = 0 →
    word2 s 20 = checksum (frameBytes (t.frameToSend 0)) →
    ∃ u, exec .encode (t.issue 1) = .next u ∧ u.status.err = 0 ∧ (∀ i, u.wbByte i = s.wbByte i) ∧
      u.wblen.toNat = 24 + (wireLen s).toNat

/-- What 40_frame_codec.md R125's last sentence comes to under R121 and 41_checksum.md R159 (b): for a valid frame with nonzero
padding, ENCODE after DECODE writes zero padding, and a checksum other than the received one unless the padding is 0xFFFF,
which adds 0 modulo 65535; a valid frame with that padding whose checksum comes out the same exists (notes/assumptions/14.md). -/
def Obligations.NonzeroPaddingChangesChecksum : Prop :=
  (∀ s t u : State, exec .decode s = .next t → t.status.err = 0 → s.wblen.toNat = 24 + (wireLen s).toNat →
    s.csum16 0 s.wblen.toNat = 0 → word2 s 22 ≠ 0 → exec .encode (t.issue 1) = .next u →
    u.status.err = 0 ∧ word2 u 22 = 0 ∧ (word2 s 22 ≠ 0xFFFF → u.cksum ≠ t.cksum)) ∧
  ∃ s t u : State, exec .decode s = .next t ∧ t.status.err = 0 ∧ s.csum16 0 s.wblen.toNat = 0 ∧ word2 s 22 = 0xFFFF ∧
    exec .encode (t.issue 1) = .next u ∧ u.cksum = t.cksum

/-- 40_frame_codec.md R127, last sentence: the order of DECODE and VERIFY does not change either result. -/
def Obligations.DecodeVerifyOrderFree : Prop :=
  ∀ s a b c d : State, exec .decode (s.issue 2) = .next a → exec .verify (a.issue 3) = .next b →
    exec .verify (s.issue 3) = .next c → exec .decode (c.issue 2) = .next d →
    b.status = c.status ∧ b.csres = c.csres ∧
    a.status = d.status ∧ a.seq = d.seq ∧ a.ackno = d.ackno ∧ a.tsHi = d.tsHi ∧ a.tsLo = d.tsLo ∧ a.len = d.len ∧
    a.flags = d.flags ∧ a.cksum = d.cksum ∧ a.pad = d.pad ∧ (∀ i, b.wbByte i = d.wbByte i) ∧ b.wblen = d.wblen

/-- 30_encoding.md R102: DECODE ignores the bytes beyond 24 + L: two buffer lengths that both hold the frame decode alike. -/
def Obligations.DecodeIgnoresTrailingBytes : Prop :=
  ∀ (s : State) (n m : Word), n.toNat ≤ s.cap.toNat → m.toNat ≤ s.cap.toNat →
    24 + (wireLen s).toNat ≤ n.toNat → 24 + (wireLen s).toNat ≤ m.toNat →
    ∃ t : State, exec .decode { s with wblen := n } = .next { t with wblen := n } ∧
      exec .decode { s with wblen := m } = .next { t with wblen := m } ∧ t.status.err = 0

/-! ## The checksum generator, CSUM and VERIFY -/

/-- 41_checksum.md R155: CSUM is the word 0x0000_0004; it writes CSRES with the checksum of WB[0 .. WBLEN−1] in the form of R150 to R153, VALID stays 0
and nothing else but STATUS changes; WBLEN > WB_CAP fails with code 2. -/
def Obligations.CsumComputesChecksum : Prop :=
  encode .csum = 0x00000004 ∧ ∀ s : State, exec .csum s = .next (
    if s.cap.toNat < s.wblen.toNat then failed s 2
    else { s with csres := ruleChecksum s s.wblen.toNat, status := okStatus s false, phase := .idle })

/-- 41_checksum.md R156: VERIFY is the word 0x0000_0003; it writes CSRES alike and VALID = 1 exactly when the result is 0x0000; a mismatch is no error. -/
def Obligations.VerifyChecksBuffer : Prop :=
  encode .verify = 0x00000003 ∧ ∀ s : State, exec .verify s = .next (
    if s.cap.toNat < s.wblen.toNat then failed s 2
    else { s with csres := ruleChecksum s s.wblen.toNat,
                  status := okStatus s (decide (ruleChecksum s s.wblen.toNat = 0)), phase := .idle })

/-- 60_exceptions.md R184: DECODE, VERIFY and CSUM fail with WBLEN_OVER_CAP when WBLEN > WB_CAP, before anything else is
read; ENCODE never reports it. -/
def Obligations.WblenOverCapFails : Prop :=
  (∀ s : State, s.cap.toNat < s.wblen.toNat →
    exec .decode s = .next (failed s 2) ∧ exec .verify s = .next (failed s 2) ∧ exec .csum s = .next (failed s 2)) ∧
  ∀ (s t : State) (i : Instr), exec i s = .next t → t.status.err = 2 → i ≠ .encode ∧ s.cap.toNat < s.wblen.toNat

/-- 41_checksum.md R152: the fold of a positive sum, the range of the fold, when it is 0 and when it is 0xFFFF. -/
def Obligations.FoldRange : Prop :=
  ∀ S : Nat, (0 < S → fold S = 1 + (S - 1) % 65535) ∧ fold S ≤ 0xFFFF ∧ (fold S = 0 ↔ S = 0) ∧ (fold S = 0xFFFF ↔ 0 < S ∧ S % 65535 = 0)

/-- 41_checksum.md R154: the end-around-carry loop, whose accumulator stays within 0x1FFFE, gives the fold of the exact sum,
and so does folding a wide accumulator at the end until it is at most 0xFFFF. -/
def Obligations.EndAroundCarryGivesFold : Prop :=
  (∀ bs : List Byte, endAroundSum (wordsOf bs) = fold (wordSum bs)) ∧
  (∀ (bs : List Byte) (k : Nat) (w : Nat), (wordsOf bs)[k]? = some w → endAroundSum ((wordsOf bs).take k) + w ≤ 0x1FFFE) ∧
  ∀ S : Nat, ∃ k, foldOnce^[k] S ≤ 0xFFFF ∧ foldOnce^[k] S = fold S

/-- 41_checksum.md R161: with at most 131074 bytes the sum stays below 2^32 and two folds of a 32-bit accumulator give the
fold; with at most 65536 bytes it stays below 2^31. -/
def Obligations.NarrowAccumulatorsAgree : Prop :=
  ∀ bs : List Byte,
    (bs.length ≤ 131074 → wordSum bs < 2 ^ 32 ∧ foldOnce (foldOnce (wordSum bs % 2 ^ 32)) = fold (wordSum bs)) ∧
    (bs.length ≤ 65536 → wordSum bs < 2 ^ 31)

/-- 41_checksum.md R160: the two checksum bytes on the wire do not depend on the byte order of the words summed: a checksum
over little-endian words, stored little-endian, gives the same bytes. -/
def Obligations.ChecksumBytesFreeOfWordOrder : Prop :=
  ∀ bs : List Byte,
    [BitVec.ofNat 8 (littleChecksum bs % 256), BitVec.ofNat 8 (littleChecksum bs / 256)] = beBytes 2 (checksum bs).toNat

/-- 41_checksum.md R157: after ENCODE completes without error, VERIFY with the WBLEN it wrote
sets CSRES = 0x0000 and VALID = 1. -/
def Obligations.EncodeThenVerifyIsValid : Prop :=
  ∀ s t : State, 24 + s.len.toNat ≤ s.cap.toNat → exec .encode s = .next t →
    ∃ u, exec .verify (t.issue 3) = .next u ∧ u.csres = 0 ∧ u.status.valid = true ∧ u.status.err = 0

/-- 41_checksum.md R158: inverting exactly one bit of a buffer that verifies is always detected,
and CSRES is then 0xFFFF − 2^e (bit 0 → 1) or 2^e (bit 1 → 0), e the bit's place in its 16-bit word. -/
def Obligations.SingleBitFlipDetected : Prop :=
  ∀ (s r t : State) (i j : Nat), s.wblen.toNat ≤ s.cap.toNat → s.csum16 0 s.wblen.toNat = 0 →
    i < s.wblen.toNat → j < 8 → r.cap = s.cap → r.wblen = s.wblen →
    (∀ k, k ≠ i → r.wbByte k = s.wbByte k) → r.wbByte i = s.wbByte i ^^^ (1#8 <<< j) → exec .verify r = .next t →
    t.status.valid = false ∧ t.status.err = 0 ∧
    t.csres.toNat = (let e := if i % 2 = 0 then 8 + j else j
      if (s.wbByte i).getLsbD j then 2 ^ e else 0xFFFF - 2 ^ e)

/-- 41_checksum.md R159: what the checksum cannot tell apart: (general) positive sums congruent modulo 65535; (a) two opposite
flips at one significance in two words; (b) a word 0x0000 changed to 0xFFFF; (c) the words reordered; (d) zero bytes
appended. -/
def Obligations.UndetectedChanges : Prop :=
  (∀ as bs : List Byte, 0 < wordSum as → 0 < wordSum bs → wordSum as % 65535 = wordSum bs % 65535 → checksum as = checksum bs) ∧
  (∀ (bs : List Byte) (i j k : Nat) (x y : Byte), i ≠ j → i % 2 = j % 2 → k < 8 → bs[i]? = some x → bs[j]? = some y →
    x.getLsbD k = false → y.getLsbD k = true →
    checksum ((bs.set i (x ^^^ (1#8 <<< k))).set j (y ^^^ (1#8 <<< k))) = checksum bs) ∧
  (∀ as bs : List Byte, as.length % 2 = 0 → 0 < wordSum (as ++ [0x00, 0x00] ++ bs) →
    checksum (as ++ [0xFF, 0xFF] ++ bs) = checksum (as ++ [0x00, 0x00] ++ bs)) ∧
  (∀ as bs : List Byte, (wordsOf as).Perm (wordsOf bs) → checksum as = checksum bs) ∧
  ∀ (bs : List Byte) (k : Nat), checksum (bs ++ List.replicate k 0x00) = checksum bs

/-! ## Errors and completion -/

/-- Every command completes from every state, without a stop (60_exceptions.md R180): PHASE idle, DONE set, ERR one of the
codes 0 to 5 (R182), OVR as it was. -/
def Obligations.EveryCommandCompletes : Prop :=
  ∀ (i : Instr) (s : State), ∃ t, exec i s = .next t ∧ t.phase = .idle ∧ t.status.done = true ∧ t.status.err.toNat ≤ 5 ∧
    t.status.ovr = s.status.ovr

/-- 60_exceptions.md R181: a command, or a reserved word, that ends with an error writes only STATUS (and PHASE): BUSY 0, DONE
1, ERR the code, VALID 0, and no register and no WB byte. -/
def Obligations.FailedCommandWritesOnlyStatus : Prop :=
  (∀ (i : Instr) (s t : State), exec i s = .next t → t.status.err ≠ 0 → t = failed s t.status.err) ∧
  ∀ (s t : State) (c : Word), s.phase = .busy c → codecTurn s = .next t → t.status.err ≠ 0 → t = failed s t.status.err

/-- 10_state.md R47 and 20_memory.md R79: the frame of each command, whatever it completes with: the registers it does not
write and the WB bytes it does not write are as before. -/
def Obligations.CommandFrames : Prop :=
  ∀ (i : Instr) (s t : State), exec i s = .next t →
    t.cap = s.cap ∧ t.cmd = s.cmd ∧ t.host = s.host ∧ t.turns = s.turns ∧ t.status.ovr = s.status.ovr ∧
    (∀ a, 24 ≤ a → t.wbByte a = s.wbByte a) ∧
    (i ≠ .encode → (∀ a, t.wbByte a = s.wbByte a) ∧ t.wblen = s.wblen) ∧
    (i ≠ .decode → t.seq = s.seq ∧ t.ackno = s.ackno ∧ t.tsHi = s.tsHi ∧ t.tsLo = s.tsLo ∧ t.len = s.len ∧
      t.flags = s.flags) ∧
    (i = .verify ∨ i = .csum → t.cksum = s.cksum ∧ t.pad = s.pad) ∧
    (i = .encode ∨ i = .decode → t.csres = s.csres)

/-- 30_encoding.md R97: packing loses no bit: unpacking (L << 3) | F gives back L and F, and the word is L · 8 + F. -/
def Obligations.LengthFlagsPackingExact : Prop :=
  ∀ (l : BitVec 29) (f : BitVec 3), lenOf (packLenFlags l f) = l ∧ flagsOf (packLenFlags l f) = f ∧
    (packLenFlags l f).toNat = l.toNat * 8 + f.toNat

/-! ## The host's bus -/

/-- 10_state.md R45, R22: what a read of each register returns while idle; reserved bits read 0, and nothing changes. -/
def Obligations.IdleRegisterReads : Prop :=
  ∀ s : State, s.busy = false →
    s.busRead32 0x00 = some (0, s) ∧ s.busRead32 0x04 = some (s.cmd, s) ∧ s.busRead32 0x08 = some (s.statusWord, s) ∧
    s.busRead32 0x0C = some (s.cap, s) ∧ s.busRead32 0x10 = some (s.seq, s) ∧ s.busRead32 0x14 = some (s.ackno, s) ∧
    s.busRead32 0x18 = some (s.tsHi, s) ∧ s.busRead32 0x1C = some (s.tsLo, s) ∧
    s.busRead32 0x20 = some (0#3 ++ s.len, s) ∧ s.busRead32 0x24 = some (0#29 ++ s.flags, s) ∧
    s.busRead32 0x28 = some (0#16 ++ s.cksum, s) ∧ s.busRead32 0x2C = some (0#16 ++ s.pad, s) ∧
    s.busRead32 0x30 = some (0#16 ++ s.csres, s) ∧ s.busRead32 0x34 = some (s.wblen, s)

/-- 10_state.md R37, R43: the bits of STATUS as read: BUSY in bit 0 is 1 exactly when PHASE = BUSY(c), then DONE, VALID, OVR,
ERR[7:4], and zeros above. -/
def Obligations.StatusWordFields : Prop :=
  ∀ s : State,
    (s.statusWord.getLsbD 0 = true ↔ ∃ c, s.phase = .busy c) ∧ s.statusWord.getLsbD 1 = s.status.done ∧
    s.statusWord.getLsbD 2 = s.status.valid ∧ s.statusWord.getLsbD 3 = s.status.ovr ∧
    s.statusWord.extractLsb' 4 4 = s.status.err ∧ s.statusWord.extractLsb' 8 24 = 0

/-- 10_state.md R23 to R33, R37: what an idle write of each register but CTRL and CMD does: LEN and FLAGS keep the low bits,
the read-only registers ignore it, and a write of STATUS does the W1C action on OVR and nothing else. -/
def Obligations.IdleRegisterWrites : Prop :=
  ∀ (s : State) (v : Word), s.busy = false →
    s.busWrite32 0x10 v = some { s with seq := v } ∧ s.busWrite32 0x14 v = some { s with ackno := v } ∧
    s.busWrite32 0x18 v = some { s with tsHi := v } ∧ s.busWrite32 0x1C v = some { s with tsLo := v } ∧
    s.busWrite32 0x20 v = some { s with len := v.extractLsb' 0 29 } ∧
    s.busWrite32 0x24 v = some { s with flags := v.extractLsb' 0 3 } ∧ s.busWrite32 0x34 v = some { s with wblen := v } ∧
    s.busWrite32 0x0C v = some s ∧ s.busWrite32 0x28 v = some s ∧ s.busWrite32 0x2C v = some s ∧ s.busWrite32 0x30 v = some s ∧
    s.busWrite32 0x08 v = some { s with status := { s.status with ovr := s.status.ovr && !v.getLsbD 3 } }

/-- 20_memory.md R61 to R63: exactly which offsets an access of each size reaches, whatever the state; every other access is
a bus error. -/
def Obligations.BusErrorsExactly : Prop :=
  ∀ (s : State) (off : Word),
    ((s.busRead32 off).isSome = true ↔
      (off.toNat < 0x38 ∧ off.toNat % 4 = 0) ∨
      (0x80000000 ≤ off.toNat ∧ off.toNat % 4 = 0 ∧ off.toNat + 3 < 0x80000000 + s.cap.toNat)) ∧
    (∀ v : Word, (s.busWrite32 off v).isSome = (s.busRead32 off).isSome) ∧
    ((s.busRead8 off).isSome = true ↔ 0x80000000 ≤ off.toNat ∧ off.toNat < 0x80000000 + s.cap.toNat) ∧
    ∀ v : Byte, (s.busWrite8 off v).isSome = (s.busRead8 off).isSome

/-- 20_memory.md R63: accesses to the WB window while idle: an 8-bit access moves one byte, a 32-bit access moves four bytes in
big-endian lanes, and every other byte and all other state is as before; any other access to the window is a bus error. -/
def Obligations.WindowAccessesBigEndian : Prop :=
  (∀ (s : State) (i : Nat) (v : Word) (b : Byte), i < 2 ^ 31 →
    (i % 4 ≠ 0 ∨ s.cap.toNat ≤ i + 3 → s.busRead32 (BitVec.ofNat 32 (0x80000000 + i)) = none ∧
      s.busWrite32 (BitVec.ofNat 32 (0x80000000 + i)) v = none) ∧
    (s.cap.toNat ≤ i → s.busRead8 (BitVec.ofNat 32 (0x80000000 + i)) = none ∧
      s.busWrite8 (BitVec.ofNat 32 (0x80000000 + i)) b = none)) ∧
  ∀ (s : State) (i : Nat) (v : Word) (b : Byte), s.busy = false →
    (i < s.cap.toNat → i < 2 ^ 31 →
      s.busRead8 (BitVec.ofNat 32 (0x80000000 + i)) = some (s.wbByte i, s) ∧
      ∃ m, s.busWrite8 (BitVec.ofNat 32 (0x80000000 + i)) b = some { s with wb := m } ∧
        ∀ k, State.wbByte { s with wb := m } k = if k = i then b else s.wbByte k) ∧
    (i % 4 = 0 → i + 3 < s.cap.toNat → i + 3 < 2 ^ 31 →
      s.busRead32 (BitVec.ofNat 32 (0x80000000 + i)) = some (word4 s i, s) ∧
      ∃ m, s.busWrite32 (BitVec.ofNat 32 (0x80000000 + i)) v = some { s with wb := m } ∧
        ∀ k, State.wbByte { s with wb := m } k =
          if k = i then v.extractLsb' 24 8 else if k = i + 1 then v.extractLsb' 16 8
          else if k = i + 2 then v.extractLsb' 8 8 else if k = i + 3 then v.extractLsb' 0 8 else s.wbByte k)

/-- 20_memory.md R65: reads while busy: CTRL, CMD, STATUS and CAP return their value; any other register or WB byte returns a
free draw, and only the draw counter of the model moves. -/
def Obligations.BusyReadsAreDraws : Prop :=
  ∀ s : State, s.busy = true →
    s.busRead32 0x00 = some (0, s) ∧ s.busRead32 0x04 = some (s.cmd, s) ∧ s.busRead32 0x08 = some (s.statusWord, s) ∧
    s.busRead32 0x0C = some (s.cap, s) ∧
    (∀ (off v : Word) (u : State), off ≠ 0x00 → off ≠ 0x04 → off ≠ 0x08 → off ≠ 0x0C → s.busRead32 off = some (v, u) →
      v = Config.freeWord s.draws ∧ u = { s with draws := s.draws + 1 }) ∧
    ∀ (off : Word) (v : Byte) (u : State), s.busRead8 off = some (v, u) →
      v = Config.freeByte s.draws (off.toNat - 0x80000000) ∧ u = { s with draws := s.draws + 1 }

/-- 20_memory.md R81: writes while busy that complete without a bus error: to CTRL and STATUS they act (a soft reset, the W1C
of OVR, or nothing), to anything else they change nothing except that OVR is set. -/
def Obligations.BusyWritesDropped : Prop :=
  ∀ s : State, s.busy = true →
    (∀ (off v : Word) (u : State), off ≠ 0x00 → off ≠ 0x08 → s.busWrite32 off v = some u →
      u = { s with status := { s.status with ovr := true } }) ∧
    (∀ (off : Word) (b : Byte) (u : State), s.busWrite8 off b = some u →
      u = { s with status := { s.status with ovr := true } }) ∧
    (∀ v : Word, s.busWrite32 0x08 v = some { s with status := { s.status with ovr := s.status.ovr && !v.getLsbD 3 } }) ∧
    ∀ v : Word, (v.getLsbD 0 = false → s.busWrite32 0x00 v = some s) ∧
      (v.getLsbD 0 = true → ∃ u, s.busWrite32 0x00 v = some u ∧ u.phase = .idle ∧ u.statusWord = 0)

/-- 70_reset_and_hazards.md R217: a write of c to CMD while idle, in one step. -/
def Obligations.CmdWriteIssues : Prop :=
  ∀ (s : State) (c : Word), s.phase = .idle → ∃ u, s.busWrite32 0x04 c = some u ∧ u.busy = true ∧
    u = { s with cmd := c, phase := .busy c,
                 status := { done := false, valid := false, ovr := s.status.ovr, err := 0 } }

/-- 70_reset_and_hazards.md R212, R213: a write to CTRL with bit 0 = 1, at any time: every register at its reset value, PHASE
idle, STATUS 0, CAP kept; WB kept, but WB[0..23] free draws when the abandoned command is ENCODE. With bit 0 = 0 nothing
happens. -/
def Obligations.SoftResetEffect : Prop :=
  ∀ (s : State) (v : Word),
    (v.getLsbD 0 = true → ∃ u, s.busWrite32 0x00 v = some u ∧
      u.seq = 0 ∧ u.ackno = 0 ∧ u.tsHi = 0 ∧ u.tsLo = 0 ∧ u.len = 0 ∧ u.flags = 0 ∧ u.cksum = 0 ∧ u.pad = 0 ∧ u.csres = 0 ∧
      u.wblen = 0 ∧ u.cmd = 0 ∧ u.cap = s.cap ∧ u.phase = .idle ∧ u.statusWord = 0 ∧
      (s.phase = .busy 1 → (∀ i, i < 24 → u.wbByte i = Config.freeByte s.draws i) ∧ ∀ i, 24 ≤ i → u.wbByte i = s.wbByte i) ∧
      (s.phase ≠ .busy 1 → ∀ i, u.wbByte i = s.wbByte i)) ∧
    (v.getLsbD 0 = false → s.busWrite32 0x00 v = some s)

/-- 70_reset_and_hazards.md R211: the power-on reset: every register at its reset value, CAP kept, PHASE idle, STATUS 0, and
every WB byte a new free draw. -/
def Obligations.PowerOnResetEffect : Prop :=
  ∀ s : State, s.nextTurn = .powerOn → ∃ t, step s = .next t ∧
    t.seq = 0 ∧ t.ackno = 0 ∧ t.tsHi = 0 ∧ t.tsLo = 0 ∧ t.len = 0 ∧ t.flags = 0 ∧ t.cksum = 0 ∧ t.pad = 0 ∧ t.csres = 0 ∧
    t.wblen = 0 ∧ t.cmd = 0 ∧ t.cap = s.cap ∧ t.phase = .idle ∧ t.statusWord = 0 ∧
    (∀ i, t.wbByte i = Config.freeByte s.draws i) ∧ t.draws = s.draws + 1

/-- 10_state.md R46 (with R45): the state after reset, for every value of the capacity. `State.reset` is that state at the
capacity of notes/assumptions/1.md, the model's choice, of which this says nothing. -/
def Obligations.ResetStateValues : Prop :=
  (∀ cap : Word, let s := State.resetWithCap cap
    s.seq = 0 ∧ s.ackno = 0 ∧ s.tsHi = 0 ∧ s.tsLo = 0 ∧ s.len = 0 ∧ s.flags = 0 ∧ s.cksum = 0 ∧ s.pad = 0 ∧ s.csres = 0 ∧
    s.wblen = 0 ∧ s.cmd = 0 ∧ s.cap = cap ∧ s.phase = .idle ∧ s.statusWord = 0 ∧ s.wb = [] ∧
    s.busRead32 0x00 = some (0, s) ∧ s.busRead32 0x0C = some (cap, s)) ∧
  State.reset = State.resetWithCap State.reset.cap

/-! ## The HOST agent -/

/-- 20_memory.md R64, R60: the host's turn on an access that the bus does not admit is a fault of that access, and the host's
turn faults for nothing else. -/
def Obligations.BusErrorIsHostFault : Prop :=
  (∀ (s : State) (off v : Word), s.nextTurn = .host → s.hostOp = .wr32 off v → s.busWrite32 off v = none →
    step s = .fault (.busError (.write32 off v))) ∧
  (∀ (s : State) (off : Word) (v : Byte), s.nextTurn = .host → s.hostOp = .wr8 off v → s.busWrite8 off v = none →
    step s = .fault (.busError (.write8 off v))) ∧
  (∀ (s : State) (off : Word) (n : Nat), s.nextTurn = .host → s.hostOp = .rd32 off n → s.busRead32 off = none →
    step s = .fault (.busError (.read32 off))) ∧
  (∀ (s : State) (off : Word) (n : Nat), s.nextTurn = .host → s.hostOp = .rd8 off n → s.busRead8 off = none →
    step s = .fault (.busError (.read8 off))) ∧
  (∀ (s : State) (z : OtherSize) (off : Word), s.nextTurn = .host → s.hostOp = .other z off →
    step s = .fault (.busError (.other z off))) ∧
  ∀ (s : State) (a : Access), step s = .fault (.busError a) → s.nextTurn = .host ∧
    match a with
    | .write32 off v => s.hostOp = .wr32 off v ∧ s.busWrite32 off v = none
    | .write8 off v => s.hostOp = .wr8 off v ∧ s.busWrite8 off v = none
    | .read32 off => (∃ n, s.hostOp = .rd32 off n) ∧ s.busRead32 off = none
    | .read8 off => (∃ n, s.hostOp = .rd8 off n) ∧ s.busRead8 off = none
    | .other z off => s.hostOp = .other z off

/-- 30_encoding.md R108: a WR32 or WR8 line makes its write and goes on; an RD32 or RD8 line makes its read, names the value,
leaves every other name, and goes on. -/
def Obligations.AccessLinesAct : Prop :=
  (∀ (s u : State) (off v : Word), s.hostOp = .wr32 off v → s.busWrite32 off v = some u →
    hostTurn s = .next { u with host := { s.host with line := s.host.line + 1 } }) ∧
  (∀ (s u : State) (off : Word) (v : Byte), s.hostOp = .wr8 off v → s.busWrite8 off v = some u →
    hostTurn s = .next { u with host := { s.host with line := s.host.line + 1 } }) ∧
  (∀ (s u : State) (off v : Word) (n : Nat), s.hostOp = .rd32 off n → s.busRead32 off = some (v, u) →
    ∃ h, hostTurn s = .next { u with host := h } ∧ h.prog = s.host.prog ∧ h.line = s.host.line + 1 ∧
      cellGet? h.vals n = some v ∧ ∀ k, k ≠ n → cellGet? h.vals k = cellGet? s.host.vals k) ∧
  ∀ (s u : State) (off : Word) (v : Byte) (n : Nat), s.hostOp = .rd8 off n → s.busRead8 off = some (v, u) →
    ∃ h, hostTurn s = .next { u with host := h } ∧ h.prog = s.host.prog ∧ h.line = s.host.line + 1 ∧
      cellGet? h.vals n = some (0#24 ++ v) ∧ ∀ k, k ≠ n → cellGet? h.vals k = cellGet? s.host.vals k

/-- 30_encoding.md R108: POLL repeats its read of STATUS while BUSY = 1, changing nothing, and ends with the last value read;
a branch is taken or not by its condition; a label line goes on and changes nothing else; HALT stays. The form of lines,
conditions and names is the model's (notes/assumptions/9.md). -/
def Obligations.PollBranchHalt : Prop :=
  (∀ (s : State) (n : Nat), s.hostOp = .poll n → s.busy = true → hostTurn s = .next s) ∧
  (∀ (s : State) (n : Nat), s.hostOp = .poll n → s.busy = false → ∃ h, hostTurn s = .next { s with host := h } ∧
    h.line = s.host.line + 1 ∧ cellGet? h.vals n = some s.statusWord ∧ h.prog = s.host.prog) ∧
  (∀ (s : State) (c : Cond) (l k : Nat) (w : Word), cellGet? s.host.vals c.name = some w → labelLine s.host.prog l = some k →
    (s.hostOp = .beq c l → hostTurn s = .next { s with host := { s.host with
      line := if w.toNat / 2 ^ c.lo % 2 ^ (c.hi - c.lo + 1) = c.value then k else s.host.line + 1 } }) ∧
    (s.hostOp = .bne c l → hostTurn s = .next { s with host := { s.host with
      line := if w.toNat / 2 ^ c.lo % 2 ^ (c.hi - c.lo + 1) = c.value then s.host.line + 1 else k } })) ∧
  (∀ (s : State) (l : Nat), s.hostOp = .label l →
    hostTurn s = .next { s with host := { s.host with line := s.host.line + 1 } }) ∧
  ∀ s : State, s.hostOp = .halt → hostTurn s = .next s

/-- 70_reset_and_hazards.md R227: a run has ended exactly when the host is at HALT and PHASE = IDLE, and from there, with no
reset to come, a step changes nothing of the block or the host. -/
def Obligations.EndOfRun : Prop :=
  (∀ s : State, s.runEnded = true ↔ s.hostOp = .halt ∧ s.phase = .idle) ∧
  ∀ s : State, s.runEnded = true → s.nextTurn ≠ .powerOn → step s = .next { s with turns := s.turns.tail }

/-! ## Whole-machine rules and invariants -/

/-- The invariant of the machine (Safety.lean) is kept by every step: the capacity's bounds, the canonical form of WB, the
codes ERR can hold and which command each belongs to, and what BUSY, DONE and VALID say about CMD, CSRES and PHASE
(10_state.md R31, R35, R39, R40, R43; 60_exceptions.md R182 to R187). -/
def Obligations.StepKeepsInvariant : Prop :=
  ∀ s t : State, s.Inv → step s = .next t → t.Inv

/-- The invariant holds after reset, for every capacity of 00_scope.md R9, and at `State.reset`, whose capacity is the model's
choice (notes/assumptions/1.md). -/
def Obligations.ResetHasInvariant : Prop :=
  (∀ cap : Word, 24 ≤ cap.toNat → cap.toNat ≤ 2 ^ 31 → (State.resetWithCap cap).Inv) ∧ State.reset.Inv

/-- 10_state.md R33: CAP is hard-wired: no step changes it, a host write of it is ignored while idle, and a read of it returns
WB_CAP at any time. -/
def Obligations.CapIsHardwired : Prop :=
  (∀ s t : State, step s = .next t → t.cap = s.cap) ∧
  (∀ (s : State) (v : Word), s.busy = false → s.busWrite32 0x0C v = some s) ∧
  ∀ s : State, s.busRead32 0x0C = some (s.cap, s)

/-- 20_memory.md R80: WB bytes are changed only by host writes and by ENCODE (bytes 0..23), the two resets apart (R211,
R213). -/
def Obligations.WbChangesOnlyByRule : Prop :=
  ∀ (s t : State) (i : Nat), step s = .next t → t.wbByte i ≠ s.wbByte i →
    (s.nextTurn = .host ∧ s.busy = false ∧
      ((∃ off b, s.hostOp = .wr8 off b ∧ off.toNat = 0x80000000 + i ∧ t.wbByte i = b) ∨
       ∃ off v, s.hostOp = .wr32 off v ∧ off.toNat % 4 = 0 ∧ off.toNat ≤ 0x80000000 + i ∧ 0x80000000 + i < off.toNat + 4)) ∨
    (s.nextTurn = .codec ∧ s.phase = .busy 1 ∧ t.status.err = 0 ∧ i < 24) ∨
    (softResetNext s ∧ s.phase = .busy 1 ∧ i < 24) ∨ s.nextTurn = .powerOn

/-- 10_state.md R41: OVR is set by every dropped host write and by nothing else, and once set it stays until a write of 1 to
STATUS bit 3, which clears it, or a reset. -/
def Obligations.OvrIsSticky : Prop :=
  ∀ s t : State, step s = .next t →
    (s.nextTurn = .host → s.busy = true →
      (∃ off v, s.hostOp = .wr32 off v ∧ off ≠ 0x00 ∧ off ≠ 0x08) ∨ (∃ off b, s.hostOp = .wr8 off b) → t.status.ovr = true) ∧
    (∀ v, s.nextTurn = .host → s.hostOp = .wr32 0x08 v → v.getLsbD 3 = true → t.status.ovr = false) ∧
    (s.status.ovr = false → t.status.ovr = true → s.nextTurn = .host ∧ s.busy = true ∧
      ((∃ off v, s.hostOp = .wr32 off v ∧ off ≠ 0x00 ∧ off ≠ 0x08) ∨ ∃ off b, s.hostOp = .wr8 off b)) ∧
    (s.status.ovr = true → t.status.ovr = false →
      (s.nextTurn = .host ∧ ∃ v, s.hostOp = .wr32 0x08 v ∧ v.getLsbD 3 = true) ∨ softResetNext s ∨ s.nextTurn = .powerOn)

/-- 10_state.md R40: VALID is 1 after a step only if it was and the step completes no command, or the step completes a VERIFY
whose checksum is 0x0000, which sets it; every other completion, every issue and both resets leave it 0. -/
def Obligations.ValidOnlyByVerify : Prop :=
  ∀ s t : State, step s = .next t →
    (t.status.valid = true → s.status.valid = true ∧ (s.nextTurn = .host ∨ s.nextTurn = .codec ∧ s.phase = .idle) ∨
      s.nextTurn = .codec ∧ s.phase = .busy 3 ∧ s.wblen.toNat ≤ s.cap.toNat ∧ ruleChecksum s s.wblen.toNat = 0) ∧
    (s.nextTurn = .codec → s.phase = .busy 3 → s.wblen.toNat ≤ s.cap.toNat → ruleChecksum s s.wblen.toNat = 0 →
      t.status.valid = true) ∧
    (∀ c, s.nextTurn = .codec → s.phase = .busy c → c ≠ 3 → t.status.valid = false) ∧
    (∀ c, s.phase = .idle → t.phase = .busy c → t.status.valid = false ∧ t.status.done = false ∧ t.status.err = 0) ∧
    (softResetNext s ∨ s.nextTurn = .powerOn → t.status.valid = false)

/-- 20_memory.md R81, last sentence, and R72: while a command is in progress the host's turn changes neither it nor any of
its inputs, unless it is the soft reset. -/
def Obligations.RunningCommandInputsFixed : Prop :=
  ∀ (s t : State) (c : Word), s.phase = .busy c → s.nextTurn = .host → step s = .next t → ¬ softResetNext s →
    t.phase = .busy c ∧ t.cmd = s.cmd ∧ t.seq = s.seq ∧ t.ackno = s.ackno ∧ t.tsHi = s.tsHi ∧ t.tsLo = s.tsLo ∧
    t.len = s.len ∧ t.flags = s.flags ∧ t.cksum = s.cksum ∧ t.pad = s.pad ∧ t.csres = s.csres ∧ t.wblen = s.wblen ∧
    t.cap = s.cap ∧ t.status.done = s.status.done ∧ t.status.valid = s.status.valid ∧ t.status.err = s.status.err ∧
    ∀ i, t.wbByte i = s.wbByte i

/-- 70_reset_and_hazards.md R218: when PHASE = BUSY(c) and the CODEC moves, the step exists, completes the command and leaves
OVR, the host and the rest of the schedule alone. -/
def Obligations.CodecStepCompletes : Prop :=
  ∀ (s : State) (c : Word), s.phase = .busy c → s.nextTurn = .codec → ∃ t, step s = .next t ∧ t.phase = .idle ∧
    t.status.done = true ∧ t.status.ovr = s.status.ovr ∧ t.cmd = s.cmd ∧ t.host = s.host ∧ t.turns = s.turns.tail

/-- 70_reset_and_hazards.md R219 (weak fairness of the CODEC; in this model the end of the schedule, notes/assumptions/5.md):
a command in progress completes, however many turns the waiting host (at POLL or HALT) takes first. -/
def Obligations.CommandEventuallyCompletes : Prop :=
  ∀ (s : State) (c : Word), s.phase = .busy c → (∀ x ∈ s.turns, x = .host) →
    (s.hostOp = .halt ∨ ∃ n, s.hostOp = .poll n) →
    ∃ t, core.run (s.turns.length + 1) s = .next t ∧ t.phase = .idle ∧ t.status.done = true ∧ t.host = s.host
end

