-- ==== Sys2Proof/Laws/State.lean ====
section
/-! SUPPORT. What each named update of the state leaves and writes, field by field, and what STATUS holds after each rule
that computes it. -/

namespace Sys2Proof.Machine

open Sys2Proof

/-! ## State.memWrite -/

@[simp] theorem State.memWrite_seq (s : State) (a n v : Nat) : (s.memWrite a n v).seq = s.seq := by cases s; rfl
@[simp] theorem State.memWrite_ackno (s : State) (a n v : Nat) : (s.memWrite a n v).ackno = s.ackno := by cases s; rfl
@[simp] theorem State.memWrite_tsHi (s : State) (a n v : Nat) : (s.memWrite a n v).tsHi = s.tsHi := by cases s; rfl
@[simp] theorem State.memWrite_tsLo (s : State) (a n v : Nat) : (s.memWrite a n v).tsLo = s.tsLo := by cases s; rfl
@[simp] theorem State.memWrite_len (s : State) (a n v : Nat) : (s.memWrite a n v).len = s.len := by cases s; rfl
@[simp] theorem State.memWrite_flags (s : State) (a n v : Nat) : (s.memWrite a n v).flags = s.flags := by cases s; rfl
@[simp] theorem State.memWrite_cksum (s : State) (a n v : Nat) : (s.memWrite a n v).cksum = s.cksum := by cases s; rfl
@[simp] theorem State.memWrite_pad (s : State) (a n v : Nat) : (s.memWrite a n v).pad = s.pad := by cases s; rfl
@[simp] theorem State.memWrite_csres (s : State) (a n v : Nat) : (s.memWrite a n v).csres = s.csres := by cases s; rfl
@[simp] theorem State.memWrite_wblen (s : State) (a n v : Nat) : (s.memWrite a n v).wblen = s.wblen := by cases s; rfl
@[simp] theorem State.memWrite_cap (s : State) (a n v : Nat) : (s.memWrite a n v).cap = s.cap := by cases s; rfl
@[simp] theorem State.memWrite_cmd (s : State) (a n v : Nat) : (s.memWrite a n v).cmd = s.cmd := by cases s; rfl
@[simp] theorem State.memWrite_status (s : State) (a n v : Nat) : (s.memWrite a n v).status = s.status := by cases s; rfl
@[simp] theorem State.memWrite_phase (s : State) (a n v : Nat) : (s.memWrite a n v).phase = s.phase := by cases s; rfl
@[simp] theorem State.memWrite_wb (s : State) (a n v : Nat) : (s.memWrite a n v).wb = Memory.writeBytes s.wb a (beBytes n v) := by cases s; rfl
@[simp] theorem State.memWrite_wbDraw (s : State) (a n v : Nat) : (s.memWrite a n v).wbDraw = s.wbDraw := by cases s; rfl
@[simp] theorem State.memWrite_draws (s : State) (a n v : Nat) : (s.memWrite a n v).draws = s.draws := by cases s; rfl
@[simp] theorem State.memWrite_host (s : State) (a n v : Nat) : (s.memWrite a n v).host = s.host := by cases s; rfl
@[simp] theorem State.memWrite_turns (s : State) (a n v : Nat) : (s.memWrite a n v).turns = s.turns := by cases s; rfl

/-! ## State.setCsres -/

@[simp] theorem State.setCsres_seq (s : State) (v : Half) : (s.setCsres v).seq = s.seq := by cases s; rfl
@[simp] theorem State.setCsres_ackno (s : State) (v : Half) : (s.setCsres v).ackno = s.ackno := by cases s; rfl
@[simp] theorem State.setCsres_tsHi (s : State) (v : Half) : (s.setCsres v).tsHi = s.tsHi := by cases s; rfl
@[simp] theorem State.setCsres_tsLo (s : State) (v : Half) : (s.setCsres v).tsLo = s.tsLo := by cases s; rfl
@[simp] theorem State.setCsres_len (s : State) (v : Half) : (s.setCsres v).len = s.len := by cases s; rfl
@[simp] theorem State.setCsres_flags (s : State) (v : Half) : (s.setCsres v).flags = s.flags := by cases s; rfl
@[simp] theorem State.setCsres_cksum (s : State) (v : Half) : (s.setCsres v).cksum = s.cksum := by cases s; rfl
@[simp] theorem State.setCsres_pad (s : State) (v : Half) : (s.setCsres v).pad = s.pad := by cases s; rfl
@[simp] theorem State.setCsres_csres (s : State) (v : Half) : (s.setCsres v).csres = v := by cases s; rfl
@[simp] theorem State.setCsres_wblen (s : State) (v : Half) : (s.setCsres v).wblen = s.wblen := by cases s; rfl
@[simp] theorem State.setCsres_cap (s : State) (v : Half) : (s.setCsres v).cap = s.cap := by cases s; rfl
@[simp] theorem State.setCsres_cmd (s : State) (v : Half) : (s.setCsres v).cmd = s.cmd := by cases s; rfl
@[simp] theorem State.setCsres_status (s : State) (v : Half) : (s.setCsres v).status = s.status := by cases s; rfl
@[simp] theorem State.setCsres_phase (s : State) (v : Half) : (s.setCsres v).phase = s.phase := by cases s; rfl
@[simp] theorem State.setCsres_wb (s : State) (v : Half) : (s.setCsres v).wb = s.wb := by cases s; rfl
@[simp] theorem State.setCsres_wbDraw (s : State) (v : Half) : (s.setCsres v).wbDraw = s.wbDraw := by cases s; rfl
@[simp] theorem State.setCsres_draws (s : State) (v : Half) : (s.setCsres v).draws = s.draws := by cases s; rfl
@[simp] theorem State.setCsres_host (s : State) (v : Half) : (s.setCsres v).host = s.host := by cases s; rfl
@[simp] theorem State.setCsres_turns (s : State) (v : Half) : (s.setCsres v).turns = s.turns := by cases s; rfl

/-! ## State.issue -/

@[simp] theorem State.issue_seq (s : State) (c : Word) : (s.issue c).seq = s.seq := by cases s; rfl
@[simp] theorem State.issue_ackno (s : State) (c : Word) : (s.issue c).ackno = s.ackno := by cases s; rfl
@[simp] theorem State.issue_tsHi (s : State) (c : Word) : (s.issue c).tsHi = s.tsHi := by cases s; rfl
@[simp] theorem State.issue_tsLo (s : State) (c : Word) : (s.issue c).tsLo = s.tsLo := by cases s; rfl
@[simp] theorem State.issue_len (s : State) (c : Word) : (s.issue c).len = s.len := by cases s; rfl
@[simp] theorem State.issue_flags (s : State) (c : Word) : (s.issue c).flags = s.flags := by cases s; rfl
@[simp] theorem State.issue_cksum (s : State) (c : Word) : (s.issue c).cksum = s.cksum := by cases s; rfl
@[simp] theorem State.issue_pad (s : State) (c : Word) : (s.issue c).pad = s.pad := by cases s; rfl
@[simp] theorem State.issue_csres (s : State) (c : Word) : (s.issue c).csres = s.csres := by cases s; rfl
@[simp] theorem State.issue_wblen (s : State) (c : Word) : (s.issue c).wblen = s.wblen := by cases s; rfl
@[simp] theorem State.issue_cap (s : State) (c : Word) : (s.issue c).cap = s.cap := by cases s; rfl
@[simp] theorem State.issue_cmd (s : State) (c : Word) : (s.issue c).cmd = c := by cases s; rfl
@[simp] theorem State.issue_status (s : State) (c : Word) : (s.issue c).status = s.status.issued := by cases s; rfl
@[simp] theorem State.issue_phase (s : State) (c : Word) : (s.issue c).phase = .busy c := by cases s; rfl
@[simp] theorem State.issue_wb (s : State) (c : Word) : (s.issue c).wb = s.wb := by cases s; rfl
@[simp] theorem State.issue_wbDraw (s : State) (c : Word) : (s.issue c).wbDraw = s.wbDraw := by cases s; rfl
@[simp] theorem State.issue_draws (s : State) (c : Word) : (s.issue c).draws = s.draws := by cases s; rfl
@[simp] theorem State.issue_host (s : State) (c : Word) : (s.issue c).host = s.host := by cases s; rfl
@[simp] theorem State.issue_turns (s : State) (c : Word) : (s.issue c).turns = s.turns := by cases s; rfl

/-! ## State.complete -/

@[simp] theorem State.complete_seq (s : State) (e : Err) (b : Bool) : (s.complete e b).seq = s.seq := by cases s; rfl
@[simp] theorem State.complete_ackno (s : State) (e : Err) (b : Bool) : (s.complete e b).ackno = s.ackno := by cases s; rfl
@[simp] theorem State.complete_tsHi (s : State) (e : Err) (b : Bool) : (s.complete e b).tsHi = s.tsHi := by cases s; rfl
@[simp] theorem State.complete_tsLo (s : State) (e : Err) (b : Bool) : (s.complete e b).tsLo = s.tsLo := by cases s; rfl
@[simp] theorem State.complete_len (s : State) (e : Err) (b : Bool) : (s.complete e b).len = s.len := by cases s; rfl
@[simp] theorem State.complete_flags (s : State) (e : Err) (b : Bool) : (s.complete e b).flags = s.flags := by cases s; rfl
@[simp] theorem State.complete_cksum (s : State) (e : Err) (b : Bool) : (s.complete e b).cksum = s.cksum := by cases s; rfl
@[simp] theorem State.complete_pad (s : State) (e : Err) (b : Bool) : (s.complete e b).pad = s.pad := by cases s; rfl
@[simp] theorem State.complete_csres (s : State) (e : Err) (b : Bool) : (s.complete e b).csres = s.csres := by cases s; rfl
@[simp] theorem State.complete_wblen (s : State) (e : Err) (b : Bool) : (s.complete e b).wblen = s.wblen := by cases s; rfl
@[simp] theorem State.complete_cap (s : State) (e : Err) (b : Bool) : (s.complete e b).cap = s.cap := by cases s; rfl
@[simp] theorem State.complete_cmd (s : State) (e : Err) (b : Bool) : (s.complete e b).cmd = s.cmd := by cases s; rfl
@[simp] theorem State.complete_status (s : State) (e : Err) (b : Bool) : (s.complete e b).status = s.status.completed e b := by cases s; rfl
@[simp] theorem State.complete_phase (s : State) (e : Err) (b : Bool) : (s.complete e b).phase = .idle := by cases s; rfl
@[simp] theorem State.complete_wb (s : State) (e : Err) (b : Bool) : (s.complete e b).wb = s.wb := by cases s; rfl
@[simp] theorem State.complete_wbDraw (s : State) (e : Err) (b : Bool) : (s.complete e b).wbDraw = s.wbDraw := by cases s; rfl
@[simp] theorem State.complete_draws (s : State) (e : Err) (b : Bool) : (s.complete e b).draws = s.draws := by cases s; rfl
@[simp] theorem State.complete_host (s : State) (e : Err) (b : Bool) : (s.complete e b).host = s.host := by cases s; rfl
@[simp] theorem State.complete_turns (s : State) (e : Err) (b : Bool) : (s.complete e b).turns = s.turns := by cases s; rfl

/-! ## State.raiseErr -/

@[simp] theorem State.raiseErr_seq (s : State) (e : Err) : (s.raiseErr e).seq = s.seq := by cases s; rfl
@[simp] theorem State.raiseErr_ackno (s : State) (e : Err) : (s.raiseErr e).ackno = s.ackno := by cases s; rfl
@[simp] theorem State.raiseErr_tsHi (s : State) (e : Err) : (s.raiseErr e).tsHi = s.tsHi := by cases s; rfl
@[simp] theorem State.raiseErr_tsLo (s : State) (e : Err) : (s.raiseErr e).tsLo = s.tsLo := by cases s; rfl
@[simp] theorem State.raiseErr_len (s : State) (e : Err) : (s.raiseErr e).len = s.len := by cases s; rfl
@[simp] theorem State.raiseErr_flags (s : State) (e : Err) : (s.raiseErr e).flags = s.flags := by cases s; rfl
@[simp] theorem State.raiseErr_cksum (s : State) (e : Err) : (s.raiseErr e).cksum = s.cksum := by cases s; rfl
@[simp] theorem State.raiseErr_pad (s : State) (e : Err) : (s.raiseErr e).pad = s.pad := by cases s; rfl
@[simp] theorem State.raiseErr_csres (s : State) (e : Err) : (s.raiseErr e).csres = s.csres := by cases s; rfl
@[simp] theorem State.raiseErr_wblen (s : State) (e : Err) : (s.raiseErr e).wblen = s.wblen := by cases s; rfl
@[simp] theorem State.raiseErr_cap (s : State) (e : Err) : (s.raiseErr e).cap = s.cap := by cases s; rfl
@[simp] theorem State.raiseErr_cmd (s : State) (e : Err) : (s.raiseErr e).cmd = s.cmd := by cases s; rfl
@[simp] theorem State.raiseErr_status (s : State) (e : Err) : (s.raiseErr e).status = s.status.completed e false := by cases s; rfl
@[simp] theorem State.raiseErr_phase (s : State) (e : Err) : (s.raiseErr e).phase = .idle := by cases s; rfl
@[simp] theorem State.raiseErr_wb (s : State) (e : Err) : (s.raiseErr e).wb = s.wb := by cases s; rfl
@[simp] theorem State.raiseErr_wbDraw (s : State) (e : Err) : (s.raiseErr e).wbDraw = s.wbDraw := by cases s; rfl
@[simp] theorem State.raiseErr_draws (s : State) (e : Err) : (s.raiseErr e).draws = s.draws := by cases s; rfl
@[simp] theorem State.raiseErr_host (s : State) (e : Err) : (s.raiseErr e).host = s.host := by cases s; rfl
@[simp] theorem State.raiseErr_turns (s : State) (e : Err) : (s.raiseErr e).turns = s.turns := by cases s; rfl

/-! ## State.dropWrite -/

@[simp] theorem State.dropWrite_seq (s : State) : (s.dropWrite).seq = s.seq := by cases s; rfl
@[simp] theorem State.dropWrite_ackno (s : State) : (s.dropWrite).ackno = s.ackno := by cases s; rfl
@[simp] theorem State.dropWrite_tsHi (s : State) : (s.dropWrite).tsHi = s.tsHi := by cases s; rfl
@[simp] theorem State.dropWrite_tsLo (s : State) : (s.dropWrite).tsLo = s.tsLo := by cases s; rfl
@[simp] theorem State.dropWrite_len (s : State) : (s.dropWrite).len = s.len := by cases s; rfl
@[simp] theorem State.dropWrite_flags (s : State) : (s.dropWrite).flags = s.flags := by cases s; rfl
@[simp] theorem State.dropWrite_cksum (s : State) : (s.dropWrite).cksum = s.cksum := by cases s; rfl
@[simp] theorem State.dropWrite_pad (s : State) : (s.dropWrite).pad = s.pad := by cases s; rfl
@[simp] theorem State.dropWrite_csres (s : State) : (s.dropWrite).csres = s.csres := by cases s; rfl
@[simp] theorem State.dropWrite_wblen (s : State) : (s.dropWrite).wblen = s.wblen := by cases s; rfl
@[simp] theorem State.dropWrite_cap (s : State) : (s.dropWrite).cap = s.cap := by cases s; rfl
@[simp] theorem State.dropWrite_cmd (s : State) : (s.dropWrite).cmd = s.cmd := by cases s; rfl
@[simp] theorem State.dropWrite_status (s : State) : (s.dropWrite).status = { s.status with ovr := true } := by cases s; rfl
@[simp] theorem State.dropWrite_phase (s : State) : (s.dropWrite).phase = s.phase := by cases s; rfl
@[simp] theorem State.dropWrite_wb (s : State) : (s.dropWrite).wb = s.wb := by cases s; rfl
@[simp] theorem State.dropWrite_wbDraw (s : State) : (s.dropWrite).wbDraw = s.wbDraw := by cases s; rfl
@[simp] theorem State.dropWrite_draws (s : State) : (s.dropWrite).draws = s.draws := by cases s; rfl
@[simp] theorem State.dropWrite_host (s : State) : (s.dropWrite).host = s.host := by cases s; rfl
@[simp] theorem State.dropWrite_turns (s : State) : (s.dropWrite).turns = s.turns := by cases s; rfl

/-! ## State.draw -/

@[simp] theorem State.draw_seq (s : State) : (s.draw).seq = s.seq := by cases s; rfl
@[simp] theorem State.draw_ackno (s : State) : (s.draw).ackno = s.ackno := by cases s; rfl
@[simp] theorem State.draw_tsHi (s : State) : (s.draw).tsHi = s.tsHi := by cases s; rfl
@[simp] theorem State.draw_tsLo (s : State) : (s.draw).tsLo = s.tsLo := by cases s; rfl
@[simp] theorem State.draw_len (s : State) : (s.draw).len = s.len := by cases s; rfl
@[simp] theorem State.draw_flags (s : State) : (s.draw).flags = s.flags := by cases s; rfl
@[simp] theorem State.draw_cksum (s : State) : (s.draw).cksum = s.cksum := by cases s; rfl
@[simp] theorem State.draw_pad (s : State) : (s.draw).pad = s.pad := by cases s; rfl
@[simp] theorem State.draw_csres (s : State) : (s.draw).csres = s.csres := by cases s; rfl
@[simp] theorem State.draw_wblen (s : State) : (s.draw).wblen = s.wblen := by cases s; rfl
@[simp] theorem State.draw_cap (s : State) : (s.draw).cap = s.cap := by cases s; rfl
@[simp] theorem State.draw_cmd (s : State) : (s.draw).cmd = s.cmd := by cases s; rfl
@[simp] theorem State.draw_status (s : State) : (s.draw).status = s.status := by cases s; rfl
@[simp] theorem State.draw_phase (s : State) : (s.draw).phase = s.phase := by cases s; rfl
@[simp] theorem State.draw_wb (s : State) : (s.draw).wb = s.wb := by cases s; rfl
@[simp] theorem State.draw_wbDraw (s : State) : (s.draw).wbDraw = s.wbDraw := by cases s; rfl
@[simp] theorem State.draw_draws (s : State) : (s.draw).draws = s.draws + 1 := by cases s; rfl
@[simp] theorem State.draw_host (s : State) : (s.draw).host = s.host := by cases s; rfl
@[simp] theorem State.draw_turns (s : State) : (s.draw).turns = s.turns := by cases s; rfl

/-! ## State.resetRegisters -/

@[simp] theorem State.resetRegisters_seq (s : State) : (s.resetRegisters).seq = 0 := by cases s; rfl
@[simp] theorem State.resetRegisters_ackno (s : State) : (s.resetRegisters).ackno = 0 := by cases s; rfl
@[simp] theorem State.resetRegisters_tsHi (s : State) : (s.resetRegisters).tsHi = 0 := by cases s; rfl
@[simp] theorem State.resetRegisters_tsLo (s : State) : (s.resetRegisters).tsLo = 0 := by cases s; rfl
@[simp] theorem State.resetRegisters_len (s : State) : (s.resetRegisters).len = 0 := by cases s; rfl
@[simp] theorem State.resetRegisters_flags (s : State) : (s.resetRegisters).flags = 0 := by cases s; rfl
@[simp] theorem State.resetRegisters_cksum (s : State) : (s.resetRegisters).cksum = 0 := by cases s; rfl
@[simp] theorem State.resetRegisters_pad (s : State) : (s.resetRegisters).pad = 0 := by cases s; rfl
@[simp] theorem State.resetRegisters_csres (s : State) : (s.resetRegisters).csres = 0 := by cases s; rfl
@[simp] theorem State.resetRegisters_wblen (s : State) : (s.resetRegisters).wblen = 0 := by cases s; rfl
@[simp] theorem State.resetRegisters_cap (s : State) : (s.resetRegisters).cap = s.cap := by cases s; rfl
@[simp] theorem State.resetRegisters_cmd (s : State) : (s.resetRegisters).cmd = 0 := by cases s; rfl
@[simp] theorem State.resetRegisters_status (s : State) : (s.resetRegisters).status = Status.cleared := by cases s; rfl
@[simp] theorem State.resetRegisters_phase (s : State) : (s.resetRegisters).phase = .idle := by cases s; rfl
@[simp] theorem State.resetRegisters_wb (s : State) : (s.resetRegisters).wb = s.wb := by cases s; rfl
@[simp] theorem State.resetRegisters_wbDraw (s : State) : (s.resetRegisters).wbDraw = s.wbDraw := by cases s; rfl
@[simp] theorem State.resetRegisters_draws (s : State) : (s.resetRegisters).draws = s.draws := by cases s; rfl
@[simp] theorem State.resetRegisters_host (s : State) : (s.resetRegisters).host = s.host := by cases s; rfl
@[simp] theorem State.resetRegisters_turns (s : State) : (s.resetRegisters).turns = s.turns := by cases s; rfl

/-! ## State.loseHeader -/

@[simp] theorem State.loseHeader_seq (s : State) : (s.loseHeader).seq = s.seq := by unfold State.loseHeader; rfl
@[simp] theorem State.loseHeader_ackno (s : State) : (s.loseHeader).ackno = s.ackno := by unfold State.loseHeader; rfl
@[simp] theorem State.loseHeader_tsHi (s : State) : (s.loseHeader).tsHi = s.tsHi := by unfold State.loseHeader; rfl
@[simp] theorem State.loseHeader_tsLo (s : State) : (s.loseHeader).tsLo = s.tsLo := by unfold State.loseHeader; rfl
@[simp] theorem State.loseHeader_len (s : State) : (s.loseHeader).len = s.len := by unfold State.loseHeader; rfl
@[simp] theorem State.loseHeader_flags (s : State) : (s.loseHeader).flags = s.flags := by unfold State.loseHeader; rfl
@[simp] theorem State.loseHeader_cksum (s : State) : (s.loseHeader).cksum = s.cksum := by unfold State.loseHeader; rfl
@[simp] theorem State.loseHeader_pad (s : State) : (s.loseHeader).pad = s.pad := by unfold State.loseHeader; rfl
@[simp] theorem State.loseHeader_csres (s : State) : (s.loseHeader).csres = s.csres := by unfold State.loseHeader; rfl
@[simp] theorem State.loseHeader_wblen (s : State) : (s.loseHeader).wblen = s.wblen := by unfold State.loseHeader; rfl
@[simp] theorem State.loseHeader_cap (s : State) : (s.loseHeader).cap = s.cap := by unfold State.loseHeader; rfl
@[simp] theorem State.loseHeader_cmd (s : State) : (s.loseHeader).cmd = s.cmd := by unfold State.loseHeader; rfl
@[simp] theorem State.loseHeader_status (s : State) : (s.loseHeader).status = s.status := by unfold State.loseHeader; rfl
@[simp] theorem State.loseHeader_phase (s : State) : (s.loseHeader).phase = s.phase := by unfold State.loseHeader; rfl
@[simp] theorem State.loseHeader_wb (s : State) : (s.loseHeader).wb = Memory.writeBytes s.wb 0 (drawnHeader s.draws) := by unfold State.loseHeader; rfl
@[simp] theorem State.loseHeader_wbDraw (s : State) : (s.loseHeader).wbDraw = s.wbDraw := by unfold State.loseHeader; rfl
@[simp] theorem State.loseHeader_draws (s : State) : (s.loseHeader).draws = s.draws + 1 := by unfold State.loseHeader; rfl
@[simp] theorem State.loseHeader_host (s : State) : (s.loseHeader).host = s.host := by unfold State.loseHeader; rfl
@[simp] theorem State.loseHeader_turns (s : State) : (s.loseHeader).turns = s.turns := by unfold State.loseHeader; rfl

/-! ## State.powerOnReset -/

@[simp] theorem State.powerOnReset_seq (s : State) : (s.powerOnReset).seq = 0 := by unfold State.powerOnReset; rfl
@[simp] theorem State.powerOnReset_ackno (s : State) : (s.powerOnReset).ackno = 0 := by unfold State.powerOnReset; rfl
@[simp] theorem State.powerOnReset_tsHi (s : State) : (s.powerOnReset).tsHi = 0 := by unfold State.powerOnReset; rfl
@[simp] theorem State.powerOnReset_tsLo (s : State) : (s.powerOnReset).tsLo = 0 := by unfold State.powerOnReset; rfl
@[simp] theorem State.powerOnReset_len (s : State) : (s.powerOnReset).len = 0 := by unfold State.powerOnReset; rfl
@[simp] theorem State.powerOnReset_flags (s : State) : (s.powerOnReset).flags = 0 := by unfold State.powerOnReset; rfl
@[simp] theorem State.powerOnReset_cksum (s : State) : (s.powerOnReset).cksum = 0 := by unfold State.powerOnReset; rfl
@[simp] theorem State.powerOnReset_pad (s : State) : (s.powerOnReset).pad = 0 := by unfold State.powerOnReset; rfl
@[simp] theorem State.powerOnReset_csres (s : State) : (s.powerOnReset).csres = 0 := by unfold State.powerOnReset; rfl
@[simp] theorem State.powerOnReset_wblen (s : State) : (s.powerOnReset).wblen = 0 := by unfold State.powerOnReset; rfl
@[simp] theorem State.powerOnReset_cap (s : State) : (s.powerOnReset).cap = s.cap := by unfold State.powerOnReset; rfl
@[simp] theorem State.powerOnReset_cmd (s : State) : (s.powerOnReset).cmd = 0 := by unfold State.powerOnReset; rfl
@[simp] theorem State.powerOnReset_status (s : State) : (s.powerOnReset).status = Status.cleared := by unfold State.powerOnReset; rfl
@[simp] theorem State.powerOnReset_phase (s : State) : (s.powerOnReset).phase = .idle := by unfold State.powerOnReset; rfl
@[simp] theorem State.powerOnReset_wb (s : State) : (s.powerOnReset).wb = [] := by unfold State.powerOnReset; rfl
@[simp] theorem State.powerOnReset_wbDraw (s : State) : (s.powerOnReset).wbDraw = s.draws := by unfold State.powerOnReset; rfl
@[simp] theorem State.powerOnReset_draws (s : State) : (s.powerOnReset).draws = s.draws + 1 := by unfold State.powerOnReset; rfl
@[simp] theorem State.powerOnReset_host (s : State) : (s.powerOnReset).host = s.host := by unfold State.powerOnReset; rfl
@[simp] theorem State.powerOnReset_turns (s : State) : (s.powerOnReset).turns = s.turns := by unfold State.powerOnReset; rfl

/-! ## State.writeZeroedHeader -/

@[simp] theorem State.writeZeroedHeader_seq (s : State) : (s.writeZeroedHeader).seq = s.seq := by simp only [State.writeZeroedHeader, State.memWrite_seq]
@[simp] theorem State.writeZeroedHeader_ackno (s : State) : (s.writeZeroedHeader).ackno = s.ackno := by simp only [State.writeZeroedHeader, State.memWrite_ackno]
@[simp] theorem State.writeZeroedHeader_tsHi (s : State) : (s.writeZeroedHeader).tsHi = s.tsHi := by simp only [State.writeZeroedHeader, State.memWrite_tsHi]
@[simp] theorem State.writeZeroedHeader_tsLo (s : State) : (s.writeZeroedHeader).tsLo = s.tsLo := by simp only [State.writeZeroedHeader, State.memWrite_tsLo]
@[simp] theorem State.writeZeroedHeader_len (s : State) : (s.writeZeroedHeader).len = s.len := by simp only [State.writeZeroedHeader, State.memWrite_len]
@[simp] theorem State.writeZeroedHeader_flags (s : State) : (s.writeZeroedHeader).flags = s.flags := by simp only [State.writeZeroedHeader, State.memWrite_flags]
@[simp] theorem State.writeZeroedHeader_cksum (s : State) : (s.writeZeroedHeader).cksum = s.cksum := by simp only [State.writeZeroedHeader, State.memWrite_cksum]
@[simp] theorem State.writeZeroedHeader_pad (s : State) : (s.writeZeroedHeader).pad = s.pad := by simp only [State.writeZeroedHeader, State.memWrite_pad]
@[simp] theorem State.writeZeroedHeader_csres (s : State) : (s.writeZeroedHeader).csres = s.csres := by simp only [State.writeZeroedHeader, State.memWrite_csres]
@[simp] theorem State.writeZeroedHeader_wblen (s : State) : (s.writeZeroedHeader).wblen = s.wblen := by simp only [State.writeZeroedHeader, State.memWrite_wblen]
@[simp] theorem State.writeZeroedHeader_cap (s : State) : (s.writeZeroedHeader).cap = s.cap := by simp only [State.writeZeroedHeader, State.memWrite_cap]
@[simp] theorem State.writeZeroedHeader_cmd (s : State) : (s.writeZeroedHeader).cmd = s.cmd := by simp only [State.writeZeroedHeader, State.memWrite_cmd]
@[simp] theorem State.writeZeroedHeader_status (s : State) : (s.writeZeroedHeader).status = s.status := by simp only [State.writeZeroedHeader, State.memWrite_status]
@[simp] theorem State.writeZeroedHeader_phase (s : State) : (s.writeZeroedHeader).phase = s.phase := by simp only [State.writeZeroedHeader, State.memWrite_phase]
@[simp] theorem State.writeZeroedHeader_wbDraw (s : State) : (s.writeZeroedHeader).wbDraw = s.wbDraw := by simp only [State.writeZeroedHeader, State.memWrite_wbDraw]
@[simp] theorem State.writeZeroedHeader_draws (s : State) : (s.writeZeroedHeader).draws = s.draws := by simp only [State.writeZeroedHeader, State.memWrite_draws]
@[simp] theorem State.writeZeroedHeader_host (s : State) : (s.writeZeroedHeader).host = s.host := by simp only [State.writeZeroedHeader, State.memWrite_host]
@[simp] theorem State.writeZeroedHeader_turns (s : State) : (s.writeZeroedHeader).turns = s.turns := by simp only [State.writeZeroedHeader, State.memWrite_turns]

/-! ## State.writeFrame -/

@[simp] theorem State.writeFrame_seq (s : State) : (s.writeFrame).seq = s.seq := by simp only [State.writeFrame, State.memWrite_seq, State.writeZeroedHeader_seq]
@[simp] theorem State.writeFrame_ackno (s : State) : (s.writeFrame).ackno = s.ackno := by simp only [State.writeFrame, State.memWrite_ackno, State.writeZeroedHeader_ackno]
@[simp] theorem State.writeFrame_tsHi (s : State) : (s.writeFrame).tsHi = s.tsHi := by simp only [State.writeFrame, State.memWrite_tsHi, State.writeZeroedHeader_tsHi]
@[simp] theorem State.writeFrame_tsLo (s : State) : (s.writeFrame).tsLo = s.tsLo := by simp only [State.writeFrame, State.memWrite_tsLo, State.writeZeroedHeader_tsLo]
@[simp] theorem State.writeFrame_len (s : State) : (s.writeFrame).len = s.len := by simp only [State.writeFrame, State.memWrite_len, State.writeZeroedHeader_len]
@[simp] theorem State.writeFrame_flags (s : State) : (s.writeFrame).flags = s.flags := by simp only [State.writeFrame, State.memWrite_flags, State.writeZeroedHeader_flags]
@[simp] theorem State.writeFrame_cksum (s : State) : (s.writeFrame).cksum = s.encodeChecksum := by simp only [State.writeFrame]
@[simp] theorem State.writeFrame_pad (s : State) : (s.writeFrame).pad = 0 := by simp only [State.writeFrame]
@[simp] theorem State.writeFrame_csres (s : State) : (s.writeFrame).csres = s.csres := by simp only [State.writeFrame, State.memWrite_csres, State.writeZeroedHeader_csres]
@[simp] theorem State.writeFrame_wblen (s : State) : (s.writeFrame).wblen = BitVec.ofNat 32 (Config.hdr + s.len.toNat) := by simp only [State.writeFrame]
@[simp] theorem State.writeFrame_cap (s : State) : (s.writeFrame).cap = s.cap := by simp only [State.writeFrame, State.memWrite_cap, State.writeZeroedHeader_cap]
@[simp] theorem State.writeFrame_cmd (s : State) : (s.writeFrame).cmd = s.cmd := by simp only [State.writeFrame, State.memWrite_cmd, State.writeZeroedHeader_cmd]
@[simp] theorem State.writeFrame_status (s : State) : (s.writeFrame).status = s.status := by simp only [State.writeFrame, State.memWrite_status, State.writeZeroedHeader_status]
@[simp] theorem State.writeFrame_phase (s : State) : (s.writeFrame).phase = s.phase := by simp only [State.writeFrame, State.memWrite_phase, State.writeZeroedHeader_phase]
@[simp] theorem State.writeFrame_wbDraw (s : State) : (s.writeFrame).wbDraw = s.wbDraw := by simp only [State.writeFrame, State.memWrite_wbDraw, State.writeZeroedHeader_wbDraw]
@[simp] theorem State.writeFrame_draws (s : State) : (s.writeFrame).draws = s.draws := by simp only [State.writeFrame, State.memWrite_draws, State.writeZeroedHeader_draws]
@[simp] theorem State.writeFrame_host (s : State) : (s.writeFrame).host = s.host := by simp only [State.writeFrame, State.memWrite_host, State.writeZeroedHeader_host]
@[simp] theorem State.writeFrame_turns (s : State) : (s.writeFrame).turns = s.turns := by simp only [State.writeFrame, State.memWrite_turns, State.writeZeroedHeader_turns]

/-! ## State.readFrame -/

@[simp] theorem State.readFrame_seq (s : State) : (s.readFrame).seq = BitVec.ofNat 32 (s.memRead 0 4) := by unfold State.readFrame; rfl
@[simp] theorem State.readFrame_ackno (s : State) : (s.readFrame).ackno = BitVec.ofNat 32 (s.memRead 4 4) := by unfold State.readFrame; rfl
@[simp] theorem State.readFrame_tsHi (s : State) : (s.readFrame).tsHi = BitVec.ofNat 32 (s.memRead 8 4) := by unfold State.readFrame; rfl
@[simp] theorem State.readFrame_tsLo (s : State) : (s.readFrame).tsLo = BitVec.ofNat 32 (s.memRead 12 4) := by unfold State.readFrame; rfl
@[simp] theorem State.readFrame_len (s : State) : (s.readFrame).len = lenOf s.wireLenFlags := by unfold State.readFrame; rfl
@[simp] theorem State.readFrame_flags (s : State) : (s.readFrame).flags = flagsOf s.wireLenFlags := by unfold State.readFrame; rfl
@[simp] theorem State.readFrame_cksum (s : State) : (s.readFrame).cksum = BitVec.ofNat 16 (s.memRead 20 2) := by unfold State.readFrame; rfl
@[simp] theorem State.readFrame_pad (s : State) : (s.readFrame).pad = BitVec.ofNat 16 (s.memRead 22 2) := by unfold State.readFrame; rfl
@[simp] theorem State.readFrame_csres (s : State) : (s.readFrame).csres = s.csres := by unfold State.readFrame; rfl
@[simp] theorem State.readFrame_wblen (s : State) : (s.readFrame).wblen = s.wblen := by unfold State.readFrame; rfl
@[simp] theorem State.readFrame_cap (s : State) : (s.readFrame).cap = s.cap := by unfold State.readFrame; rfl
@[simp] theorem State.readFrame_cmd (s : State) : (s.readFrame).cmd = s.cmd := by unfold State.readFrame; rfl
@[simp] theorem State.readFrame_status (s : State) : (s.readFrame).status = s.status := by unfold State.readFrame; rfl
@[simp] theorem State.readFrame_phase (s : State) : (s.readFrame).phase = s.phase := by unfold State.readFrame; rfl
@[simp] theorem State.readFrame_wb (s : State) : (s.readFrame).wb = s.wb := by unfold State.readFrame; rfl
@[simp] theorem State.readFrame_wbDraw (s : State) : (s.readFrame).wbDraw = s.wbDraw := by unfold State.readFrame; rfl
@[simp] theorem State.readFrame_draws (s : State) : (s.readFrame).draws = s.draws := by unfold State.readFrame; rfl
@[simp] theorem State.readFrame_host (s : State) : (s.readFrame).host = s.host := by unfold State.readFrame; rfl
@[simp] theorem State.readFrame_turns (s : State) : (s.readFrame).turns = s.turns := by unfold State.readFrame; rfl

/-! ## State.hostNext -/

@[simp] theorem State.hostNext_seq (s : State) : (s.hostNext).seq = s.seq := by cases s; rfl
@[simp] theorem State.hostNext_ackno (s : State) : (s.hostNext).ackno = s.ackno := by cases s; rfl
@[simp] theorem State.hostNext_tsHi (s : State) : (s.hostNext).tsHi = s.tsHi := by cases s; rfl
@[simp] theorem State.hostNext_tsLo (s : State) : (s.hostNext).tsLo = s.tsLo := by cases s; rfl
@[simp] theorem State.hostNext_len (s : State) : (s.hostNext).len = s.len := by cases s; rfl
@[simp] theorem State.hostNext_flags (s : State) : (s.hostNext).flags = s.flags := by cases s; rfl
@[simp] theorem State.hostNext_cksum (s : State) : (s.hostNext).cksum = s.cksum := by cases s; rfl
@[simp] theorem State.hostNext_pad (s : State) : (s.hostNext).pad = s.pad := by cases s; rfl
@[simp] theorem State.hostNext_csres (s : State) : (s.hostNext).csres = s.csres := by cases s; rfl
@[simp] theorem State.hostNext_wblen (s : State) : (s.hostNext).wblen = s.wblen := by cases s; rfl
@[simp] theorem State.hostNext_cap (s : State) : (s.hostNext).cap = s.cap := by cases s; rfl
@[simp] theorem State.hostNext_cmd (s : State) : (s.hostNext).cmd = s.cmd := by cases s; rfl
@[simp] theorem State.hostNext_status (s : State) : (s.hostNext).status = s.status := by cases s; rfl
@[simp] theorem State.hostNext_phase (s : State) : (s.hostNext).phase = s.phase := by cases s; rfl
@[simp] theorem State.hostNext_wb (s : State) : (s.hostNext).wb = s.wb := by cases s; rfl
@[simp] theorem State.hostNext_wbDraw (s : State) : (s.hostNext).wbDraw = s.wbDraw := by cases s; rfl
@[simp] theorem State.hostNext_draws (s : State) : (s.hostNext).draws = s.draws := by cases s; rfl
@[simp] theorem State.hostNext_host (s : State) : (s.hostNext).host = { s.host with line := s.host.line + 1 } := by cases s; rfl
@[simp] theorem State.hostNext_turns (s : State) : (s.hostNext).turns = s.turns := by cases s; rfl

/-! ## State.hostBind -/

@[simp] theorem State.hostBind_seq (s : State) (n : Nat) (v : Word) : (s.hostBind n v).seq = s.seq := by cases s; rfl
@[simp] theorem State.hostBind_ackno (s : State) (n : Nat) (v : Word) : (s.hostBind n v).ackno = s.ackno := by cases s; rfl
@[simp] theorem State.hostBind_tsHi (s : State) (n : Nat) (v : Word) : (s.hostBind n v).tsHi = s.tsHi := by cases s; rfl
@[simp] theorem State.hostBind_tsLo (s : State) (n : Nat) (v : Word) : (s.hostBind n v).tsLo = s.tsLo := by cases s; rfl
@[simp] theorem State.hostBind_len (s : State) (n : Nat) (v : Word) : (s.hostBind n v).len = s.len := by cases s; rfl
@[simp] theorem State.hostBind_flags (s : State) (n : Nat) (v : Word) : (s.hostBind n v).flags = s.flags := by cases s; rfl
@[simp] theorem State.hostBind_cksum (s : State) (n : Nat) (v : Word) : (s.hostBind n v).cksum = s.cksum := by cases s; rfl
@[simp] theorem State.hostBind_pad (s : State) (n : Nat) (v : Word) : (s.hostBind n v).pad = s.pad := by cases s; rfl
@[simp] theorem State.hostBind_csres (s : State) (n : Nat) (v : Word) : (s.hostBind n v).csres = s.csres := by cases s; rfl
@[simp] theorem State.hostBind_wblen (s : State) (n : Nat) (v : Word) : (s.hostBind n v).wblen = s.wblen := by cases s; rfl
@[simp] theorem State.hostBind_cap (s : State) (n : Nat) (v : Word) : (s.hostBind n v).cap = s.cap := by cases s; rfl
@[simp] theorem State.hostBind_cmd (s : State) (n : Nat) (v : Word) : (s.hostBind n v).cmd = s.cmd := by cases s; rfl
@[simp] theorem State.hostBind_status (s : State) (n : Nat) (v : Word) : (s.hostBind n v).status = s.status := by cases s; rfl
@[simp] theorem State.hostBind_phase (s : State) (n : Nat) (v : Word) : (s.hostBind n v).phase = s.phase := by cases s; rfl
@[simp] theorem State.hostBind_wb (s : State) (n : Nat) (v : Word) : (s.hostBind n v).wb = s.wb := by cases s; rfl
@[simp] theorem State.hostBind_wbDraw (s : State) (n : Nat) (v : Word) : (s.hostBind n v).wbDraw = s.wbDraw := by cases s; rfl
@[simp] theorem State.hostBind_draws (s : State) (n : Nat) (v : Word) : (s.hostBind n v).draws = s.draws := by cases s; rfl
@[simp] theorem State.hostBind_host (s : State) (n : Nat) (v : Word) : (s.hostBind n v).host = { s.host with vals := cellsWrite s.host.vals n [v] } := by cases s; rfl
@[simp] theorem State.hostBind_turns (s : State) (n : Nat) (v : Word) : (s.hostBind n v).turns = s.turns := by cases s; rfl

/-! ## State.popTurn -/

@[simp] theorem State.popTurn_seq (s : State) : (s.popTurn).seq = s.seq := by cases s; rfl
@[simp] theorem State.popTurn_ackno (s : State) : (s.popTurn).ackno = s.ackno := by cases s; rfl
@[simp] theorem State.popTurn_tsHi (s : State) : (s.popTurn).tsHi = s.tsHi := by cases s; rfl
@[simp] theorem State.popTurn_tsLo (s : State) : (s.popTurn).tsLo = s.tsLo := by cases s; rfl
@[simp] theorem State.popTurn_len (s : State) : (s.popTurn).len = s.len := by cases s; rfl
@[simp] theorem State.popTurn_flags (s : State) : (s.popTurn).flags = s.flags := by cases s; rfl
@[simp] theorem State.popTurn_cksum (s : State) : (s.popTurn).cksum = s.cksum := by cases s; rfl
@[simp] theorem State.popTurn_pad (s : State) : (s.popTurn).pad = s.pad := by cases s; rfl
@[simp] theorem State.popTurn_csres (s : State) : (s.popTurn).csres = s.csres := by cases s; rfl
@[simp] theorem State.popTurn_wblen (s : State) : (s.popTurn).wblen = s.wblen := by cases s; rfl
@[simp] theorem State.popTurn_cap (s : State) : (s.popTurn).cap = s.cap := by cases s; rfl
@[simp] theorem State.popTurn_cmd (s : State) : (s.popTurn).cmd = s.cmd := by cases s; rfl
@[simp] theorem State.popTurn_status (s : State) : (s.popTurn).status = s.status := by cases s; rfl
@[simp] theorem State.popTurn_phase (s : State) : (s.popTurn).phase = s.phase := by cases s; rfl
@[simp] theorem State.popTurn_wb (s : State) : (s.popTurn).wb = s.wb := by cases s; rfl
@[simp] theorem State.popTurn_wbDraw (s : State) : (s.popTurn).wbDraw = s.wbDraw := by cases s; rfl
@[simp] theorem State.popTurn_draws (s : State) : (s.popTurn).draws = s.draws := by cases s; rfl
@[simp] theorem State.popTurn_host (s : State) : (s.popTurn).host = s.host := by cases s; rfl
@[simp] theorem State.popTurn_turns (s : State) : (s.popTurn).turns = s.turns.tail := by cases s; rfl

/-! ## State.fetchNow -/

@[simp] theorem State.fetchNow_seq (s : State) (c : Word) : (s.fetchNow c).seq = s.seq := by cases s; rfl
@[simp] theorem State.fetchNow_ackno (s : State) (c : Word) : (s.fetchNow c).ackno = s.ackno := by cases s; rfl
@[simp] theorem State.fetchNow_tsHi (s : State) (c : Word) : (s.fetchNow c).tsHi = s.tsHi := by cases s; rfl
@[simp] theorem State.fetchNow_tsLo (s : State) (c : Word) : (s.fetchNow c).tsLo = s.tsLo := by cases s; rfl
@[simp] theorem State.fetchNow_len (s : State) (c : Word) : (s.fetchNow c).len = s.len := by cases s; rfl
@[simp] theorem State.fetchNow_flags (s : State) (c : Word) : (s.fetchNow c).flags = s.flags := by cases s; rfl
@[simp] theorem State.fetchNow_cksum (s : State) (c : Word) : (s.fetchNow c).cksum = s.cksum := by cases s; rfl
@[simp] theorem State.fetchNow_pad (s : State) (c : Word) : (s.fetchNow c).pad = s.pad := by cases s; rfl
@[simp] theorem State.fetchNow_csres (s : State) (c : Word) : (s.fetchNow c).csres = s.csres := by cases s; rfl
@[simp] theorem State.fetchNow_wblen (s : State) (c : Word) : (s.fetchNow c).wblen = s.wblen := by cases s; rfl
@[simp] theorem State.fetchNow_cap (s : State) (c : Word) : (s.fetchNow c).cap = s.cap := by cases s; rfl
@[simp] theorem State.fetchNow_cmd (s : State) (c : Word) : (s.fetchNow c).cmd = c := by cases s; rfl
@[simp] theorem State.fetchNow_status (s : State) (c : Word) : (s.fetchNow c).status = s.status.issued := by cases s; rfl
@[simp] theorem State.fetchNow_phase (s : State) (c : Word) : (s.fetchNow c).phase = .busy c := by cases s; rfl
@[simp] theorem State.fetchNow_wb (s : State) (c : Word) : (s.fetchNow c).wb = s.wb := by cases s; rfl
@[simp] theorem State.fetchNow_wbDraw (s : State) (c : Word) : (s.fetchNow c).wbDraw = s.wbDraw := by cases s; rfl
@[simp] theorem State.fetchNow_draws (s : State) (c : Word) : (s.fetchNow c).draws = s.draws := by cases s; rfl
@[simp] theorem State.fetchNow_host (s : State) (c : Word) : (s.fetchNow c).host = s.host := by cases s; rfl
@[simp] theorem State.fetchNow_turns (s : State) (c : Word) : (s.fetchNow c).turns = .codec :: s.turns := by cases s; rfl

/-! ## STATUS -/

@[simp] theorem Status.issued_done (st : Status) : st.issued.done = false := rfl
@[simp] theorem Status.issued_valid (st : Status) : st.issued.valid = false := rfl
@[simp] theorem Status.issued_ovr (st : Status) : st.issued.ovr = st.ovr := rfl
@[simp] theorem Status.issued_err (st : Status) : st.issued.err = 0 := rfl
@[simp] theorem Status.completed_done (st : Status) (e : Err) (b : Bool) : (st.completed e b).done = true := rfl
@[simp] theorem Status.completed_valid (st : Status) (e : Err) (b : Bool) : (st.completed e b).valid = b := rfl
@[simp] theorem Status.completed_ovr (st : Status) (e : Err) (b : Bool) : (st.completed e b).ovr = st.ovr := rfl
@[simp] theorem Status.completed_err (st : Status) (e : Err) (b : Bool) : (st.completed e b).err = e.code := rfl
@[simp] theorem Status.cleared_done : Status.cleared.done = false := rfl
@[simp] theorem Status.cleared_valid : Status.cleared.valid = false := rfl
@[simp] theorem Status.cleared_ovr : Status.cleared.ovr = false := rfl
@[simp] theorem Status.cleared_err : Status.cleared.err = 0 := rfl
@[simp] theorem Status.written_done (st : Status) (v : Word) : (st.written v).done = st.done := rfl
@[simp] theorem Status.written_valid (st : Status) (v : Word) : (st.written v).valid = st.valid := rfl
@[simp] theorem Status.written_ovr (st : Status) (v : Word) : (st.written v).ovr = (st.ovr && !v.getLsbD 3) := rfl
@[simp] theorem Status.written_err (st : Status) (v : Word) : (st.written v).err = st.err := rfl

/-! ## PHASE -/

theorem State.busy_of_idle {s : State} (h : s.phase = .idle) : s.busy = false := by simp [State.busy, h]
theorem State.busy_of_busy {s : State} {c : Word} (h : s.phase = .busy c) : s.busy = true := by simp [State.busy, h]
theorem State.busy_iff {s : State} : s.busy = true ↔ ∃ c, s.phase = .busy c := by
  unfold State.busy; cases s.phase <;> simp
theorem State.not_busy_iff {s : State} : s.busy = false ↔ s.phase = .idle := by
  unfold State.busy; cases s.phase <;> simp

/-! ## The soft reset touches only the registers, WB[0..23] and the draw counter -/

theorem State.softReset_eq (s : State) :
    s.softReset = s.resetRegisters ∨ s.encodeInProgress = true ∧ s.softReset = s.loseHeader.resetRegisters := by
  unfold State.softReset; split <;> simp_all

@[simp] theorem State.softReset_seq (s : State) : s.softReset.seq = 0 := by
  rcases s.softReset_eq with h | ⟨_, h⟩ <;> simp [h]
@[simp] theorem State.softReset_ackno (s : State) : s.softReset.ackno = 0 := by
  rcases s.softReset_eq with h | ⟨_, h⟩ <;> simp [h]
@[simp] theorem State.softReset_tsHi (s : State) : s.softReset.tsHi = 0 := by
  rcases s.softReset_eq with h | ⟨_, h⟩ <;> simp [h]
@[simp] theorem State.softReset_tsLo (s : State) : s.softReset.tsLo = 0 := by
  rcases s.softReset_eq with h | ⟨_, h⟩ <;> simp [h]
@[simp] theorem State.softReset_len (s : State) : s.softReset.len = 0 := by
  rcases s.softReset_eq with h | ⟨_, h⟩ <;> simp [h]
@[simp] theorem State.softReset_flags (s : State) : s.softReset.flags = 0 := by
  rcases s.softReset_eq with h | ⟨_, h⟩ <;> simp [h]
@[simp] theorem State.softReset_cksum (s : State) : s.softReset.cksum = 0 := by
  rcases s.softReset_eq with h | ⟨_, h⟩ <;> simp [h]
@[simp] theorem State.softReset_pad (s : State) : s.softReset.pad = 0 := by
  rcases s.softReset_eq with h | ⟨_, h⟩ <;> simp [h]
@[simp] theorem State.softReset_csres (s : State) : s.softReset.csres = 0 := by
  rcases s.softReset_eq with h | ⟨_, h⟩ <;> simp [h]
@[simp] theorem State.softReset_wblen (s : State) : s.softReset.wblen = 0 := by
  rcases s.softReset_eq with h | ⟨_, h⟩ <;> simp [h]
@[simp] theorem State.softReset_cap (s : State) : s.softReset.cap = s.cap := by
  rcases s.softReset_eq with h | ⟨_, h⟩ <;> simp [h]
@[simp] theorem State.softReset_cmd (s : State) : s.softReset.cmd = 0 := by
  rcases s.softReset_eq with h | ⟨_, h⟩ <;> simp [h]
@[simp] theorem State.softReset_status (s : State) : s.softReset.status = Status.cleared := by
  rcases s.softReset_eq with h | ⟨_, h⟩ <;> simp [h]
@[simp] theorem State.softReset_phase (s : State) : s.softReset.phase = .idle := by
  rcases s.softReset_eq with h | ⟨_, h⟩ <;> simp [h]
@[simp] theorem State.softReset_wbDraw (s : State) : s.softReset.wbDraw = s.wbDraw := by
  rcases s.softReset_eq with h | ⟨_, h⟩ <;> simp [h]
@[simp] theorem State.softReset_host (s : State) : s.softReset.host = s.host := by
  rcases s.softReset_eq with h | ⟨_, h⟩ <;> simp [h]
@[simp] theorem State.softReset_turns (s : State) : s.softReset.turns = s.turns := by
  rcases s.softReset_eq with h | ⟨_, h⟩ <;> simp [h]

end Sys2Proof.Machine
end

