-- ==== Sys2Proof/Laws/Memory.lean ====
section
/-! SUPPORT. The laws of the wire buffer: a read after a write, every other byte unchanged, the canonical form kept, and
big-endian numbers and byte strings inverse to each other. -/

namespace Sys2Proof.Machine

open Sys2Proof

/-! ## Lists keyed by numbers -/

theorem cellGet?_append {α : Type} (m k : List (Nat × α)) (i : Nat) :
    cellGet? (m ++ k) i = (cellGet? m i).or (cellGet? k i) := by
  induction m with
  | nil => simp [cellGet?]
  | cons c m ih => obtain ⟨a, b⟩ := c; simp only [List.cons_append, cellGet?]; split <;> simp [ih]

theorem cellGet?_filter {α : Type} (m : List (Nat × α)) (p : Nat → Bool) (i : Nat) :
    cellGet? (m.filter fun c => p c.1) i = if p i then cellGet? m i else none := by
  induction m with
  | nil => simp [cellGet?]
  | cons c m ih =>
    obtain ⟨a, b⟩ := c
    by_cases ha : a = i
    · subst ha; by_cases hp : p a = true <;> simp_all [cellGet?]
    · by_cases hp : p a = true <;> simp_all [cellGet?]

theorem cellGet?_cellsFrom {α : Type} (a : Nat) (bs : List α) (i : Nat) :
    cellGet? (cellsFrom a bs) i = if a ≤ i then bs[i - a]? else none := by
  induction bs generalizing a with
  | nil => simp [cellsFrom, cellGet?]
  | cons b bs ih =>
    rw [cellsFrom, cellGet?, ih]
    by_cases h : a = i
    · subst h; simp
    · by_cases hl : a ≤ i
      · rw [if_neg h, if_pos (by omega), if_pos hl, show i - a = (i - (a + 1)) + 1 by omega, List.getElem?_cons_succ]
      · rw [if_neg h, if_neg (by omega), if_neg hl]

/-- The one law of a store: the new values at their keys, every other key as before. -/
theorem cellGet?_cellsWrite {α : Type} (m : List (Nat × α)) (a : Nat) (bs : List α) (i : Nat) :
    cellGet? (cellsWrite m a bs) i = if a ≤ i ∧ i < a + bs.length then bs[i - a]? else cellGet? m i := by
  rw [cellsWrite, cellGet?_append, cellGet?_append, cellGet?_filter m (fun k => decide (k < a)), cellGet?_cellsFrom,
    cellGet?_filter m (fun k => decide (a + bs.length ≤ k))]
  by_cases h1 : i < a
  · have h2 : ¬ a ≤ i := by omega
    have h3 : ¬ a + bs.length ≤ i := by omega
    simp [h1, h2, h3]
  · have h2 : a ≤ i := by omega
    by_cases h3 : i < a + bs.length
    · have h4 : ¬ a + bs.length ≤ i := by omega
      simp [h1, h2, h3, h4]
    · have h4 : a + bs.length ≤ i := by omega
      have h5 : bs[i - a]? = none := List.getElem?_eq_none (by omega)
      simp [h1, h2, h3, h4, h5]

/-- The canonical form, as a relation between any two cells. -/
theorem cellsRising_iff {α : Type} (m : List (Nat × α)) : cellsRising m = true ↔ m.Pairwise fun c d => c.1 < d.1 := by
  induction m with
  | nil => simp [cellsRising]
  | cons c m ih =>
    obtain ⟨a, b⟩ := c
    cases m with
    | nil => simp [cellsRising]
    | cons d m =>
      obtain ⟨e, f⟩ := d
      rw [cellsRising, Bool.and_eq_true, decide_eq_true_eq, ih, List.pairwise_cons (a := (a, b))]
      constructor
      · rintro ⟨h1, h2⟩
        refine ⟨fun x hx => ?_, h2⟩
        rcases List.mem_cons.mp hx with rfl | hx
        · exact h1
        · exact Nat.lt_trans h1 ((List.pairwise_cons.mp h2).1 x hx)
      · exact fun ⟨h1, h2⟩ => ⟨h1 (e, f) (List.mem_cons_self ..), h2⟩

theorem mem_cellsFrom {α : Type} {a : Nat} {bs : List α} {c : Nat × α} (h : c ∈ cellsFrom a bs) :
    a ≤ c.1 ∧ c.1 < a + bs.length := by
  induction bs generalizing a with
  | nil => simp [cellsFrom] at h
  | cons b bs ih =>
    rcases List.mem_cons.mp h with rfl | h
    · simp
    · have := ih h; simp only [List.length_cons]; omega

theorem cellsFrom_pairwise {α : Type} (a : Nat) (bs : List α) : (cellsFrom a bs).Pairwise fun c d => c.1 < d.1 := by
  induction bs generalizing a with
  | nil => simp [cellsFrom]
  | cons b bs ih => rw [cellsFrom, List.pairwise_cons]; exact ⟨fun x hx => (mem_cellsFrom hx).1, ih (a + 1)⟩

/-- A store keeps the canonical form. -/
theorem cellsWrite_rising {α : Type} {m : List (Nat × α)} (a : Nat) (bs : List α) (h : cellsRising m = true) :
    cellsRising (cellsWrite m a bs) = true := by
  rw [cellsRising_iff] at h ⊢
  rw [cellsWrite, List.pairwise_append, List.pairwise_append]
  refine ⟨⟨h.filter _, cellsFrom_pairwise a bs, fun x hx y hy => ?_⟩, h.filter _, fun x hx y hy => ?_⟩
  · have := mem_cellsFrom hy
    have hx := (List.mem_filter.mp hx).2
    simp only [decide_eq_true_eq] at hx; omega
  · have hy := (List.mem_filter.mp hy).2
    simp only [decide_eq_true_eq] at hy
    rcases List.mem_append.mp hx with hx | hx
    · have hx := (List.mem_filter.mp hx).2
      simp only [decide_eq_true_eq] at hx; omega
    · have := mem_cellsFrom hx; omega

/-! ## Byte strings stored in WB -/

/-- The one law of a store of a byte string: its bytes at its offsets, every other offset as before. -/
theorem Memory.get_writeBytes (m : Memory) (a : Nat) (bs : List Byte) (i : Nat) :
    cellGet? (Memory.writeBytes m a bs) i = if a ≤ i ∧ i < a + bs.length then bs[i - a]? else cellGet? m i :=
  cellGet?_cellsWrite m a bs i

theorem Memory.writeBytes_wf {m : Memory} (a : Nat) (bs : List Byte) (h : Memory.wf m = true) :
    Memory.wf (Memory.writeBytes m a bs) = true := cellsWrite_rising a bs h

theorem Memory.writeBytes_within {m : Memory} {a n : Nat} {bs : List Byte} (h : Memory.within m n = true)
    (hn : a + bs.length ≤ n) : Memory.within (Memory.writeBytes m a bs) n = true := by
  simp only [Memory.within, List.all_eq_true, decide_eq_true_eq] at h ⊢
  intro c hc
  rcases List.mem_append.mp hc with hc | hc
  · rcases List.mem_append.mp hc with hc | hc
    · exact h c (List.mem_filter.mp hc).1
    · have := mem_cellsFrom hc; omega
  · exact h c (List.mem_filter.mp hc).1

/-! ## Big-endian numbers -/

@[simp] theorem beBytes_length (n v : Nat) : (beBytes n v).length = n := by
  induction n with
  | zero => rfl
  | succ n ih => simp [beBytes, ih]

/-- Byte `k` of the `n` bytes of `v` is `v[8(n−k)−1 : 8(n−k−1)]` (00_scope.md R12). -/
theorem beBytes_getElem? {n k : Nat} (v : Nat) (h : k < n) :
    (beBytes n v)[k]? = some (BitVec.ofNat 8 (v / 256 ^ (n - 1 - k))) := by
  induction n generalizing k with
  | zero => omega
  | succ n ih =>
    cases k with
    | zero => simp [beBytes]
    | succ k => rw [beBytes, List.getElem?_cons_succ, ih (by omega)]; congr 4; omega

/-- The bytes of a number, cut in two: the upper ones and the lower ones. -/
theorem beBytes_add (m n v : Nat) : beBytes (m + n) v = beBytes m (v / 256 ^ n) ++ beBytes n v := by
  induction m with
  | zero => simp [beBytes]
  | succ m ih =>
    rw [show m + 1 + n = (m + n) + 1 by omega, beBytes, ih, beBytes, List.cons_append, Nat.div_div_eq_div_mul,
      ← Nat.pow_add, Nat.add_comm n m]

/-- The `n` bytes of a number depend on it modulo 256^n. -/
theorem beBytes_mod (n v : Nat) : beBytes n (v % 256 ^ n) = beBytes n v := by
  apply List.ext_getElem?
  intro k
  by_cases hk : k < n
  · rw [beBytes_getElem? _ hk, beBytes_getElem? _ hk]
    congr 1
    apply BitVec.eq_of_toNat_eq
    simp only [BitVec.toNat_ofNat]
    rw [show 256 ^ n = 256 ^ (n - 1 - k) * (256 * 256 ^ k) by
      rw [← Nat.pow_succ', ← Nat.pow_add]; congr 1; omega, Nat.mod_mul_right_div_self]
    exact Nat.mod_mul_right_mod _ _ _
  · rw [List.getElem?_eq_none (by simp; omega), List.getElem?_eq_none (by simp; omega)]

/-- The eight bytes of a 64-bit number made of two 32-bit halves (30_encoding.md R93). -/
theorem beBytes_append_halves (a b : Word) : beBytes 8 (a ++ b).toNat = beBytes 4 a.toNat ++ beBytes 4 b.toNat := by
  have hb := b.isLt
  have h : (a ++ b).toNat = a.toNat * 2 ^ 32 + b.toNat := by
    rw [BitVec.toNat_append, ← Nat.shiftLeft_add_eq_or_of_lt hb, Nat.shiftLeft_eq]
  rw [h, beBytes_add 4 4, ← beBytes_mod 4 (a.toNat * 2 ^ 32 + b.toNat)]
  congr 2 <;> omega

/-- Reading back the big-endian bytes of a number gives it modulo 256^n. -/
theorem beNat_beBytes (n v : Nat) : beNat (beBytes n v) = v % 256 ^ n := by
  induction n with
  | zero => simp [beNat, beBytes, Nat.mod_one]
  | succ n ih =>
    simp only [beBytes, beNat, beBytes_length, ih, BitVec.toNat_ofNat]
    rw [Nat.pow_succ 256 n, Nat.mod_mul, Nat.add_comm, Nat.mul_comm]

theorem beNat_lt (bs : List Byte) : beNat bs < 256 ^ bs.length := by
  induction bs with
  | nil => simp [beNat]
  | cons b bs ih =>
    have := b.isLt
    simp only [beNat, List.length_cons, Nat.pow_succ]
    nlinarith

theorem beNat_append (as bs : List Byte) : beNat (as ++ bs) = beNat as * 256 ^ bs.length + beNat bs := by
  induction as with
  | nil => simp [beNat]
  | cons a as ih => simp only [List.cons_append, beNat, ih, List.length_append, Nat.pow_add]; ring

/-- The bytes of the number a byte string spells are that string. -/
theorem beBytes_beNat (bs : List Byte) : beBytes bs.length (beNat bs) = bs := by
  have h := beBytes_length bs.length (beNat bs)
  apply List.ext_getElem? 
  intro k
  by_cases hk : k < bs.length
  · rw [beBytes_getElem? _ hk]
    induction bs generalizing k with
    | nil => simp at hk
    | cons b bs ih =>
      have hb := beNat_lt bs
      cases k with
      | zero =>
        simp only [beNat, List.length_cons, Nat.add_sub_cancel, Nat.sub_zero, List.getElem?_cons_zero]
        rw [Nat.mul_comm, Nat.mul_add_div (by positivity), Nat.div_eq_of_lt hb]
        simp
      | succ k =>
        rw [List.length_cons] at hk
        rw [List.getElem?_cons_succ, ← ih (beBytes_length _ _) k (by omega)]
        simp only [beNat, List.length_cons]
        congr 1
        apply BitVec.eq_of_toNat_eq
        simp only [BitVec.toNat_ofNat]
        have e : bs.length + 1 - 1 - (k + 1) = bs.length - 1 - k := by omega
        rw [e]
        have p : 256 ^ bs.length = 256 ^ (bs.length - 1 - k) * (256 * 256 ^ k) := by
          rw [← Nat.pow_succ', ← Nat.pow_add]; congr 1; omega
        rw [p, show b.toNat * (256 ^ (bs.length - 1 - k) * (256 * 256 ^ k)) + beNat bs
            = 256 ^ (bs.length - 1 - k) * (b.toNat * (256 * 256 ^ k)) + beNat bs by ring, Nat.mul_add_div (by positivity)]
        rw [show b.toNat * (256 * 256 ^ k) = 256 * (b.toNat * 256 ^ k) by ring]
        norm_num [Nat.add_mod, Nat.mul_mod]
  · rw [List.getElem?_eq_none (by omega), List.getElem?_eq_none (by omega)]

/-! ## Reads of WB -/

@[simp] theorem State.wbBytes_length (s : State) (a n : Nat) : (s.wbBytes a n).length = n := by
  induction n generalizing a with
  | zero => rfl
  | succ n ih => simp [State.wbBytes, ih]

theorem State.wbBytes_getElem? (s : State) {a n k : Nat} (h : k < n) : (s.wbBytes a n)[k]? = some (s.wbByte (a + k)) := by
  induction n generalizing a k with
  | zero => omega
  | succ n ih =>
    cases k with
    | zero => simp [State.wbBytes]
    | succ k => rw [State.wbBytes, List.getElem?_cons_succ, ih (by omega)]; congr 2; omega

theorem State.wbBytes_append (s : State) (a m n : Nat) : s.wbBytes a (m + n) = s.wbBytes a m ++ s.wbBytes (a + m) n := by
  induction m generalizing a with
  | zero => simp [State.wbBytes]
  | succ m ih =>
    rw [Nat.succ_add, State.wbBytes, ih, State.wbBytes, List.cons_append]
    congr 3; omega

/-- A byte string depends on its own bytes only. -/
theorem State.wbBytes_congr {s t : State} {a n : Nat} (h : ∀ i, a ≤ i → i < a + n → t.wbByte i = s.wbByte i) :
    t.wbBytes a n = s.wbBytes a n := by
  induction n generalizing a with
  | zero => rfl
  | succ n ih => rw [State.wbBytes, State.wbBytes, h a (by omega) (by omega), ih fun i h1 h2 => h i (by omega) (by omega)]

theorem State.memRead_congr {s t : State} {a n : Nat} (h : ∀ i, a ≤ i → i < a + n → t.wbByte i = s.wbByte i) :
    t.memRead a n = s.memRead a n := by
  rw [State.memRead, State.memRead, State.wbBytes_congr h]

theorem State.memRead_lt (s : State) (a n : Nat) : s.memRead a n < 256 ^ n := by
  simpa [State.memRead] using beNat_lt (s.wbBytes a n)

/-- `State.wbByte` reads the wire buffer and the draw of its unwritten bytes, nothing else. -/
theorem State.wbByte_congr {s t : State} (h : t.wb = s.wb) (hd : t.wbDraw = s.wbDraw) (i : Nat) : t.wbByte i = s.wbByte i := by
  simp [State.wbByte, h, hd]

@[simp] theorem State.wbByte_setCsres (s : State) (v : Half) (i : Nat) : (s.setCsres v).wbByte i = s.wbByte i := by cases s; rfl
@[simp] theorem State.wbByte_issue (s : State) (c : Word) (i : Nat) : (s.issue c).wbByte i = s.wbByte i := by cases s; rfl
@[simp] theorem State.wbByte_complete (s : State) (e : Err) (b : Bool) (i : Nat) : (s.complete e b).wbByte i = s.wbByte i := by cases s; rfl
@[simp] theorem State.wbByte_raiseErr (s : State) (e : Err) (i : Nat) : (s.raiseErr e).wbByte i = s.wbByte i := by cases s; rfl
@[simp] theorem State.wbByte_dropWrite (s : State) (i : Nat) : s.dropWrite.wbByte i = s.wbByte i := by cases s; rfl
@[simp] theorem State.wbByte_draw (s : State) (i : Nat) : s.draw.wbByte i = s.wbByte i := by cases s; rfl
@[simp] theorem State.wbByte_resetRegisters (s : State) (i : Nat) : s.resetRegisters.wbByte i = s.wbByte i := by cases s; rfl
@[simp] theorem State.wbByte_hostNext (s : State) (i : Nat) : s.hostNext.wbByte i = s.wbByte i := by cases s; rfl
@[simp] theorem State.wbByte_hostBind (s : State) (n : Nat) (v : Word) (i : Nat) : (s.hostBind n v).wbByte i = s.wbByte i := by cases s; rfl
@[simp] theorem State.wbByte_readFrame (s : State) (i : Nat) : s.readFrame.wbByte i = s.wbByte i :=
  State.wbByte_congr (State.readFrame_wb s) (State.readFrame_wbDraw s) i
@[simp] theorem State.wbByte_powerOnReset (s : State) (i : Nat) : s.powerOnReset.wbByte i = Config.freeByte s.draws i := by cases s; rfl

/-- The one law of `MemWrite` (00_scope.md R12): the number's bytes at its offsets, every other byte as before. -/
theorem State.wbByte_memWrite (s : State) (a n v i : Nat) :
    (s.memWrite a n v).wbByte i = if a ≤ i ∧ i < a + n then BitVec.ofNat 8 (v / 256 ^ (n - 1 - (i - a))) else s.wbByte i := by
  simp only [State.wbByte, State.memWrite_wb, State.memWrite_wbDraw, Memory.get_writeBytes, beBytes_length]
  split
  · rw [beBytes_getElem? _ (by omega)]; rfl
  · rfl

theorem State.wbByte_memWrite_of_outside (s : State) {a n v i : Nat} (h : ¬ (a ≤ i ∧ i < a + n)) :
    (s.memWrite a n v).wbByte i = s.wbByte i := by
  rw [State.wbByte_memWrite, if_neg h]

/-- A byte string read where a number was just written is the number's bytes. -/
theorem State.wbBytes_memWrite_same (s : State) (a n v : Nat) : (s.memWrite a n v).wbBytes a n = beBytes n v := by
  apply List.ext_getElem?
  intro k
  by_cases hk : k < n
  · rw [State.wbBytes_getElem? _ hk, beBytes_getElem? _ hk, State.wbByte_memWrite, if_pos (by omega)]
    congr 5; omega
  · rw [List.getElem?_eq_none (by simp; omega), List.getElem?_eq_none (by simp; omega)]

/-- A byte string read clear of a write. -/
theorem State.wbBytes_memWrite_of_clear (s : State) {a n v b k : Nat} (h : b + k ≤ a ∨ a + n ≤ b) :
    (s.memWrite a n v).wbBytes b k = s.wbBytes b k :=
  State.wbBytes_congr fun i _ _ => State.wbByte_memWrite_of_outside s (by omega)

/-- A number read back where it was just written. -/
theorem State.memRead_memWrite_same (s : State) (a n v : Nat) : (s.memWrite a n v).memRead a n = v % 256 ^ n := by
  rw [State.memRead, State.wbBytes_memWrite_same, beNat_beBytes]

/-- A number read clear of a write. -/
theorem State.memRead_memWrite_of_clear (s : State) {a n v b k : Nat} (h : b + k ≤ a ∨ a + n ≤ b) :
    (s.memWrite a n v).memRead b k = s.memRead b k :=
  State.memRead_congr fun i _ _ => State.wbByte_memWrite_of_outside s (by omega)

/-! ## Every operation on WB keeps its canonical form and its bounds -/

theorem State.memWrite_wf {s : State} (a n v : Nat) (h : Memory.wf s.wb = true) : Memory.wf (s.memWrite a n v).wb = true :=
  Memory.writeBytes_wf a _ h

theorem State.memWrite_within {s : State} {a n v c : Nat} (h : Memory.within s.wb c = true) (hc : a + n ≤ c) :
    Memory.within (s.memWrite a n v).wb c = true := Memory.writeBytes_within h (by simpa using hc)

@[simp] theorem drawnHeader_length (n : Nat) : (drawnHeader n).length = 24 := by simp [drawnHeader, Config.hdr]

theorem State.loseHeader_wf {s : State} (h : Memory.wf s.wb = true) : Memory.wf s.loseHeader.wb = true :=
  Memory.writeBytes_wf 0 _ h

theorem State.loseHeader_within {s : State} {c : Nat} (h : Memory.within s.wb c = true) (hc : 24 ≤ c) :
    Memory.within s.loseHeader.wb c = true := Memory.writeBytes_within h (by simpa using hc)

theorem State.softReset_wf {s : State} (h : Memory.wf s.wb = true) : Memory.wf s.softReset.wb = true := by
  unfold State.softReset; split
  · exact State.loseHeader_wf h
  · exact h

theorem State.softReset_within {s : State} {c : Nat} (h : Memory.within s.wb c = true) (hc : 24 ≤ c) :
    Memory.within s.softReset.wb c = true := by
  unfold State.softReset; split
  · exact State.loseHeader_within h hc
  · exact h

theorem State.powerOnReset_wf (s : State) : Memory.wf s.powerOnReset.wb = true := rfl

theorem State.reset_memory_wf : Memory.wf State.reset.wb = true := rfl

/-- WB after a soft reset: WB[0..23] drawn when it abandons an ENCODE, every other byte kept (70_reset_and_hazards.md R213). -/
theorem State.wbByte_softReset (s : State) (i : Nat) :
    s.softReset.wbByte i = if s.encodeInProgress = true ∧ i < 24 then Config.freeByte s.draws i else s.wbByte i := by
  unfold State.softReset
  by_cases he : s.encodeInProgress = true
  · simp only [he, if_true, true_and, State.wbByte, State.resetRegisters_wb, State.resetRegisters_wbDraw,
      State.loseHeader_wb, State.loseHeader_wbDraw, Memory.get_writeBytes, drawnHeader_length, Nat.zero_le, Nat.zero_add]
    split
    · rename_i h
      simp [drawnHeader, Config.hdr, List.getElem?_range h]
    · rfl
  · simp [he, State.wbByte]

end Sys2Proof.Machine
end

