-- ==== Sys2Proof/Laws/Bus.lean ====
section
/-! SUPPORT. What each bus access can do: one case lemma per access. -/

namespace Sys2Proof.Machine

open Sys2Proof

@[simp] theorem Reg.ofOffset_offset (r : Reg) : Reg.ofOffset (Reg.offset r) = some r := by cases r <;> rfl

theorem Reg.offset_of_ofOffset {off : Word} {r : Reg} (h : Reg.ofOffset off = some r) : off = Reg.offset r := by
  have := List.find?_some h
  simpa [eq_comm] using this

@[simp] theorem target32_offset (cap : Nat) (r : Reg) : target32 cap (Reg.offset r) = some (.reg r) := by
  simp [target32]

theorem target32_reg {cap : Nat} {off : Word} {r : Reg} (h : target32 cap off = some (.reg r)) : off = Reg.offset r := by
  unfold target32 at h
  split at h
  · rename_i r' h'
    injection h with h; injection h with h; subst h
    exact Reg.offset_of_ofOffset h'
  · split at h <;> simp at h

theorem target32_wb {cap : Nat} {off : Word} {i : Nat} (h : target32 cap off = some (.wb i)) :
    off.toNat = 0x80000000 + i ∧ i % 4 = 0 ∧ i + 3 < cap := by
  unfold target32 Config.wbBase at h
  split at h
  · simp at h
  · split at h
    · rename_i hc
      injection h with h; injection h with h
      omega
    · simp at h

theorem target8_some {cap : Nat} {off : Word} {i : Nat} (h : target8 cap off = some i) :
    off.toNat = 0x80000000 + i ∧ i < cap := by
  unfold target8 Config.wbBase at h
  split at h
  · rename_i hc
    injection h with h
    omega
  · simp at h

/-- No register lies in the window or beyond the map. -/
theorem Reg.ofOffset_eq_none {off : Word} (h : 0x38 ≤ off.toNat) : Reg.ofOffset off = none := by
  cases hr : Reg.ofOffset off with
  | none => rfl
  | some r => rw [Reg.offset_of_ofOffset hr] at h; revert h; cases r <;> decide

/-- Four bytes of WB at a multiple of 4 are reached (20_memory.md R63). -/
theorem target32_of_window {cap : Nat} {off : Word} (h : 0x80000000 ≤ off.toNat) (h4 : (off.toNat - 0x80000000) % 4 = 0)
    (hc : off.toNat - 0x80000000 + 3 < cap) : target32 cap off = some (.wb (off.toNat - 0x80000000)) := by
  unfold target32
  rw [Reg.ofOffset_eq_none (by omega)]
  exact if_pos ⟨h, h4, hc⟩

/-- A byte of WB is reached (20_memory.md R63). -/
theorem target8_of_window {cap : Nat} {off : Word} (h : 0x80000000 ≤ off.toNat) (hc : off.toNat - 0x80000000 < cap) :
    target8 cap off = some (off.toNat - 0x80000000) := if_pos ⟨h, hc⟩

/-- A 32-bit read leaves the state as it is, but for the draw it takes while busy. -/
theorem State.busRead32_cases {s u : State} {off v : Word} (h : s.busRead32 off = some (v, u)) :
    u = s ∨ (s.busy = true ∧ v = Config.freeWord s.draws ∧ u = s.draw) := by
  unfold State.busRead32 at h
  split at h
  · simp at h
  · split at h
    · rename_i hb; simp only [Option.some.injEq, Prod.mk.injEq] at h; simp at hb; exact .inr ⟨hb.1, h.1.symm, h.2.symm⟩
    · simp only [Option.some.injEq, Prod.mk.injEq] at h; exact .inl h.2.symm
  · split at h
    · rename_i hb; simp only [Option.some.injEq, Prod.mk.injEq] at h; exact .inr ⟨hb, h.1.symm, h.2.symm⟩
    · simp only [Option.some.injEq, Prod.mk.injEq] at h; exact .inl h.2.symm

/-- An 8-bit read leaves the state as it is, but for the draw it takes while busy. -/
theorem State.busRead8_cases {s u : State} {off : Word} {v : Byte} (h : s.busRead8 off = some (v, u)) :
    u = s ∨ (s.busy = true ∧ u = s.draw) := by
  unfold State.busRead8 at h
  split at h
  · simp at h
  · split at h
    · rename_i hb; simp only [Option.some.injEq, Prod.mk.injEq] at h; exact .inr ⟨hb, h.2.symm⟩
    · simp only [Option.some.injEq, Prod.mk.injEq] at h; exact .inl h.2.symm

/-- All that a 32-bit write can do: be dropped, write a register, or write four bytes of WB. -/
theorem State.busWrite32_cases {s u : State} {off v : Word} (h : s.busWrite32 off v = some u) :
    (s.busy = true ∧ (∀ r, off = Reg.offset r → Reg.writableWhileBusy r = false) ∧ u = s.dropWrite) ∨
    (∃ r, off = Reg.offset r ∧ (s.busy = true → Reg.writableWhileBusy r = true) ∧ u = s.writeReg v r) ∨
    (s.busy = false ∧ ∃ i, off.toNat = 0x80000000 + i ∧ i % 4 = 0 ∧ i + 3 < s.wbCap ∧ u = s.memWrite i 4 v.toNat) := by
  unfold State.busWrite32 at h
  split at h
  · simp at h
  · rename_i r hr
    split at h
    · rename_i hb
      simp at hb
      injection h with h
      refine .inl ⟨hb.1, fun r' hr' => ?_, h.symm⟩
      rw [hr', target32_offset] at hr
      injection hr with hr; injection hr with hr
      rw [hr]; exact hb.2
    · rename_i hb; simp at hb; injection h with h; exact .inr (.inl ⟨r, target32_reg hr, hb, h.symm⟩)
  · rename_i i hi
    split at h
    · rename_i hb
      injection h with h
      refine .inl ⟨hb, fun r' hr' => ?_, h.symm⟩
      rw [hr', target32_offset] at hi
      simp at hi
    · rename_i hb
      injection h with h
      have := target32_wb hi
      exact .inr (.inr ⟨by simpa using hb, i, this.1, this.2.1, this.2.2, h.symm⟩)

/-- All that an 8-bit write can do: be dropped, or write one byte of WB. -/
theorem State.busWrite8_cases {s u : State} {off : Word} {v : Byte} (h : s.busWrite8 off v = some u) :
    (s.busy = true ∧ u = s.dropWrite) ∨
    (s.busy = false ∧ ∃ i, off.toNat = 0x80000000 + i ∧ i < s.wbCap ∧ u = s.memWrite i 1 v.toNat) := by
  unfold State.busWrite8 at h
  split at h
  · simp at h
  · rename_i i hi
    have := target8_some hi
    split at h
    · rename_i hb; injection h with h; exact .inl ⟨hb, h.symm⟩
    · rename_i hb; injection h with h; exact .inr ⟨by simpa using hb, i, this.1, this.2, h.symm⟩

/-- A write to a register leaves WB_CAP, the host and the schedule as they are. -/
theorem State.writeReg_frame (s : State) (v : Word) (r : Reg) :
    (s.writeReg v r).cap = s.cap ∧ (s.writeReg v r).host = s.host ∧ (s.writeReg v r).turns = s.turns ∧
      (s.writeReg v r).wbDraw = s.wbDraw := by
  cases r <;> simp only [State.writeReg] <;> first | (split <;> simp) | simp

end Sys2Proof.Machine
end

