-- ==== Sys2Proof/Laws/Checksum.lean ====
section
/-! SUPPORT. The small laws of the checksum generator: the fold's range, its dependence on the sum modulo 65535 only, and the
word sum of a string cut at an even place. -/

namespace Sys2Proof.Machine

open Sys2Proof

@[simp] theorem fold_zero : fold 0 = 0 := rfl

theorem fold_of_pos {S : Nat} (h : 0 < S) : fold S = 1 + (S - 1) % 65535 := by rw [fold, if_neg (by omega)]

theorem fold_le (S : Nat) : fold S ≤ 65535 := by unfold fold; split <;> omega

/-- Two positive sums that agree modulo 65535 have the same fold. -/
theorem fold_eq_of_mod_eq {S T : Nat} (hS : 0 < S) (hT : 0 < T) (h : S % 65535 = T % 65535) : fold S = fold T := by
  rw [fold_of_pos hS, fold_of_pos hT]; omega

/-- The fold agrees with the sum modulo 65535. -/
theorem fold_mod (S : Nat) : fold S % 65535 = S % 65535 := by unfold fold; split <;> omega

theorem checksum_toNat (bs : List Byte) : (checksum bs).toNat = 65535 - fold (wordSum bs) := by
  rw [checksum, BitVec.toNat_ofNat, Nat.mod_eq_of_lt]
  have := fold_le (wordSum bs); omega

@[simp] theorem wordSum_nil : wordSum [] = 0 := rfl
@[simp] theorem wordSum_single (b : Byte) : wordSum [b] = b.toNat * 256 := by simp [wordSum, wordsOf]
@[simp] theorem wordSum_cons_cons (b c : Byte) (r : List Byte) :
    wordSum (b :: c :: r) = b.toNat * 256 + c.toNat + wordSum r := by simp [wordSum, wordsOf]

/-- Words pair from the front, so a string cut at an even place has the words of its two parts. -/
theorem wordsOf_append {as : List Byte} (bs : List Byte) (h : as.length % 2 = 0) :
    wordsOf (as ++ bs) = wordsOf as ++ wordsOf bs := by
  induction as using wordsOf.induct with
  | case1 => simp [wordsOf]
  | case2 b => simp at h
  | case3 b c r ih => simp only [List.length_cons] at h; simp [wordsOf, ih (by omega)]

theorem wordSum_append {as : List Byte} (bs : List Byte) (h : as.length % 2 = 0) :
    wordSum (as ++ bs) = wordSum as + wordSum bs := by
  rw [wordSum, wordsOf_append bs h, List.sum_append]; rfl

/-- The word sum of the two bytes of a 16-bit number is that number. -/
theorem wordSum_beBytes_two {v : Nat} (h : v < 65536) : wordSum (beBytes 2 v) = v := by
  simp only [beBytes, wordSum_cons_cons, wordSum_nil, BitVec.toNat_ofNat]; omega

/-- Every word is a 16-bit number (41_checksum.md R150). -/
theorem wordsOf_lt (bs : List Byte) {w : Nat} (h : w ∈ wordsOf bs) : w < 65536 := by
  induction bs using wordsOf.induct with
  | case1 => simp [wordsOf] at h
  | case2 b => have := b.isLt; simp [wordsOf] at h; omega
  | case3 b c r ih =>
    have := b.isLt; have := c.isLt
    rcases List.mem_cons.mp h with rfl | h
    · omega
    · exact ih h

end Sys2Proof.Machine
end

