-- ==== Sys2Proof/Laws/Codec.lean ====
section
/-! SUPPORT. What each command's completion can do: one case lemma per meaning, and the bytes and the canonical form of WB
after ENCODE. -/

namespace Sys2Proof.Machine

open Sys2Proof

/-- All that ENCODE's completion can do (40_frame_codec.md R121). -/
theorem execEncode_cases {s t : State} (h : execEncode s = .next t) :
    (s.wbCap < 24 + s.len.toNat ∧ t = s.raiseErr .lenOverCap) ∨
    (24 + s.len.toNat ≤ s.wbCap ∧ t = s.writeFrame.complete .ok false) := by
  unfold execEncode Config.hdr at h
  split at h <;> injection h with h
  · exact .inl ⟨by assumption, h.symm⟩
  · exact .inr ⟨by omega, h.symm⟩

/-- All that DECODE's completion can do (40_frame_codec.md R123). -/
theorem execDecode_cases {s t : State} (h : execDecode s = .next t) :
    (s.wbCap < s.wblen.toNat ∧ t = s.raiseErr .wblenOverCap) ∨
    (s.wblen.toNat ≤ s.wbCap ∧ s.wblen.toNat < 24 ∧ t = s.raiseErr .shortHeader) ∨
    (s.wblen.toNat ≤ s.wbCap ∧ 24 ≤ s.wblen.toNat ∧ s.wblen.toNat < 24 + (lenOf s.wireLenFlags).toNat ∧
      t = s.raiseErr .shortPayload) ∨
    (s.wblen.toNat ≤ s.wbCap ∧ 24 + (lenOf s.wireLenFlags).toNat ≤ s.wblen.toNat ∧ t = s.readFrame.complete .ok false) := by
  unfold execDecode Config.hdr at h
  split at h
  · injection h with h; exact .inl ⟨by assumption, h.symm⟩
  · split at h
    · injection h with h; exact .inr (.inl ⟨by omega, by assumption, h.symm⟩)
    · split at h <;> injection h with h
      · exact .inr (.inr (.inl ⟨by omega, by omega, by assumption, h.symm⟩))
      · exact .inr (.inr (.inr ⟨by omega, by omega, h.symm⟩))

/-- All that VERIFY's completion can do (41_checksum.md R156). -/
theorem execVerify_cases {s t : State} (h : execVerify s = .next t) :
    (s.wbCap < s.wblen.toNat ∧ t = s.raiseErr .wblenOverCap) ∨
    (s.wblen.toNat ≤ s.wbCap ∧
      t = (s.setCsres (s.csum16 0 s.wblen.toNat)).complete .ok (s.csum16 0 s.wblen.toNat == 0)) := by
  unfold execVerify at h
  split at h <;> injection h with h
  · exact .inl ⟨by assumption, h.symm⟩
  · exact .inr ⟨by omega, h.symm⟩

/-- All that CSUM's completion can do (41_checksum.md R155). -/
theorem execCsum_cases {s t : State} (h : execCsum s = .next t) :
    (s.wbCap < s.wblen.toNat ∧ t = s.raiseErr .wblenOverCap) ∨
    (s.wblen.toNat ≤ s.wbCap ∧ t = (s.setCsres (s.csum16 0 s.wblen.toNat)).complete .ok false) := by
  unfold execCsum at h
  split at h <;> injection h with h
  · exact .inl ⟨by assumption, h.symm⟩
  · exact .inr ⟨by omega, h.symm⟩

/-! ## WB after ENCODE's writes -/

/-- ENCODE's writes end before WB[24] (20_memory.md R79). -/
theorem State.wbByte_writeZeroedHeader_of_payload (s : State) {i : Nat} (h : 24 ≤ i) :
    s.writeZeroedHeader.wbByte i = s.wbByte i := by
  simp only [State.writeZeroedHeader, State.wbByte_memWrite]
  repeat rw [if_neg (by omega)]

theorem State.wbByte_writeFrame (s : State) (i : Nat) :
    s.writeFrame.wbByte i = (s.writeZeroedHeader.memWrite 20 2 s.encodeChecksum.toNat).wbByte i :=
  State.wbByte_congr (by simp only [State.writeFrame]) (by simp only [State.writeFrame]) i

theorem State.wbByte_writeFrame_of_payload (s : State) {i : Nat} (h : 24 ≤ i) : s.writeFrame.wbByte i = s.wbByte i := by
  rw [State.wbByte_writeFrame, State.wbByte_memWrite_of_outside _ (by omega), State.wbByte_writeZeroedHeader_of_payload s h]

@[simp] theorem frameBytes_length (f : Frame) : (frameBytes f).length = 24 + f.payload.length := by
  simp [frameBytes]; omega

/-- WB[0..23] after ENCODE's header writes with `k` in the checksum field (40_frame_codec.md R121). -/
theorem State.wbBytes_headerOnly (s : State) (k : Nat) :
    (s.writeZeroedHeader.memWrite 20 2 k).wbBytes 0 24 =
      beBytes 4 s.seq.toNat ++ beBytes 4 s.ackno.toNat ++ beBytes 8 s.timestamp.toNat
        ++ beBytes 4 (packLenFlags s.len s.flags).toNat ++ beBytes 2 k ++ beBytes 2 0 := by
  rw [State.timestamp, beBytes_append_halves, State.writeZeroedHeader]
  rw [State.wbBytes_append _ 0 22 2, State.wbBytes_append _ 0 20 2, State.wbBytes_append _ 0 16 4,
    State.wbBytes_append _ 0 12 4, State.wbBytes_append _ 0 8 4, State.wbBytes_append _ 0 4 4]
  simp only [Nat.zero_add]
  repeat first
    | rw [State.wbBytes_memWrite_same]
    | rw [State.wbBytes_memWrite_of_clear _ (by omega)]
  simp only [List.append_assoc]

/-- WB after ENCODE's header writes with `k` in the checksum field: the frame to send with that field. -/
theorem State.wbBytes_header (s : State) (k : Half) :
    (s.writeZeroedHeader.memWrite 20 2 k.toNat).wbBytes 0 (24 + s.len.toNat) = frameBytes (s.frameToSend k) := by
  have hp : (s.writeZeroedHeader.memWrite 20 2 k.toNat).wbBytes 24 s.len.toNat = s.wbBytes Config.hdr s.len.toNat :=
    State.wbBytes_congr fun i _ _ => by
      rw [State.wbByte_memWrite_of_outside _ (by omega), State.wbByte_writeZeroedHeader_of_payload s (by omega)]
  rw [State.wbBytes_append, Nat.zero_add, hp, State.wbBytes_headerOnly, frameBytes, State.frameToSend]
  rfl

/-- Writing the zero checksum field again changes no byte. -/
theorem State.wbByte_writeZeroedHeader_again (s : State) (i : Nat) :
    (s.writeZeroedHeader.memWrite 20 2 0).wbByte i = s.writeZeroedHeader.wbByte i := by
  rw [State.wbByte_memWrite]
  split
  · simp only [State.writeZeroedHeader, State.wbByte_memWrite]
    rw [if_neg (by omega), if_pos (by omega)]
  · rfl

/-- WB after ENCODE's writes, before the checksum: the frame to send with a zero checksum field. -/
theorem State.wbBytes_writeZeroedHeader (s : State) :
    s.writeZeroedHeader.wbBytes 0 (24 + s.len.toNat) = frameBytes (s.frameToSend 0) := by
  rw [← State.wbBytes_header]
  exact (State.wbBytes_congr fun i _ _ => State.wbByte_writeZeroedHeader_again s i).symm

/-- The checksum ENCODE writes is that of the frame with a zero checksum field (40_frame_codec.md R121). -/
theorem State.encodeChecksum_eq (s : State) : s.encodeChecksum = checksum (frameBytes (s.frameToSend 0)) := by
  rw [State.encodeChecksum, State.csum16, Config.hdr, State.wbBytes_writeZeroedHeader]

/-- WB after all of ENCODE's writes: the frame to send. -/
theorem State.wbBytes_writeFrame (s : State) :
    s.writeFrame.wbBytes 0 (24 + s.len.toNat) = frameBytes (s.frameToSend s.encodeChecksum) := by
  rw [← State.wbBytes_header]
  exact State.wbBytes_congr fun i _ _ => State.wbByte_writeFrame s i

theorem State.writeFrame_wb (s : State) :
    s.writeFrame.wb = (s.writeZeroedHeader.memWrite 20 2 s.encodeChecksum.toNat).wb := by simp only [State.writeFrame]

theorem State.writeFrame_wf {s : State} (h : Memory.wf s.wb = true) : Memory.wf s.writeFrame.wb = true := by
  rw [State.writeFrame_wb, State.writeZeroedHeader]
  repeat apply State.memWrite_wf
  exact h

theorem State.writeFrame_within {s : State} {c : Nat} (h : Memory.within s.wb c = true) (hc : 24 ≤ c) :
    Memory.within s.writeFrame.wb c = true := by
  rw [State.writeFrame_wb, State.writeZeroedHeader]
  repeat (apply State.memWrite_within (hc := by omega))
  exact h

end Sys2Proof.Machine
end

