-- ==== Sys2Proof/Laws/PerInstr.lean ====
section
/-! SUPPORT. Statements about every command as syntax, one lemma per constructor of `Instr`. -/

namespace Sys2Proof.Laws

open Sys2Proof

/-- The command word has the format CMDW (30_encoding.md R106): RSVD zero, OP the command's opcode, and it is well formed. -/
def CommandWord.Statement (i : Instr) : Prop := i.wf = true ∧ cmdRsvd (encode i) = 0 ∧ cmdOp (encode i) = i.op

theorem CommandWord.encode : CommandWord.Statement .encode := by unfold CommandWord.Statement; decide
theorem CommandWord.decode : CommandWord.Statement .decode := by unfold CommandWord.Statement; decide
theorem CommandWord.verify : CommandWord.Statement .verify := by unfold CommandWord.Statement; decide
theorem CommandWord.csum : CommandWord.Statement .csum := by unfold CommandWord.Statement; decide

end Sys2Proof.Laws
end

