-- ==== Sys2Proof/Laws/Step.lean ====
section
/-! SUPPORT. What one step can do: the turn it runs, and all that the HOST's and the CODEC's turn can do. -/

namespace Sys2Proof.Machine

open Sys2Proof

/-- All that the CODEC's turn can do (70_reset_and_hazards.md R218). -/
theorem codecTurn_cases {s t : State} (h : codecTurn s = .next t) :
    (s.phase = .idle ∧ t = s) ∨
    (∃ c i, s.phase = .busy c ∧ decode c = .ok i ∧ exec i s = .next t) ∨
    (∃ c r, s.phase = .busy c ∧ decode c = .error r ∧ t = s.raiseErr .illegalCmd) := by
  unfold codecTurn at h
  split at h
  · rename_i hp; injection h with h; exact .inl ⟨hp, h.symm⟩
  · rename_i c hp
    split at h
    · rename_i i hi; exact .inr (.inl ⟨c, i, hp, hi, h⟩)
    · rename_i r hr; injection h with h; exact .inr (.inr ⟨c, r, hp, hr, h.symm⟩)

/-- All that the HOST's turn can do to the block: nothing, take a draw (a read while busy), or one write; beside it only the
host's own state changes. -/
theorem hostTurn_cases {s t : State} (h : hostTurn s = .next t) :
    ∃ u h', t = { u with host := h' } ∧
      (u = s ∨ (s.busy = true ∧ u = s.draw) ∨
        (∃ off v, s.hostOp = .wr32 off v ∧ s.busWrite32 off v = some u) ∨
        (∃ off v, s.hostOp = .wr8 off v ∧ s.busWrite8 off v = some u)) := by
  unfold hostTurn hostLine at h
  split at h
  · rename_i off v hop
    unfold hostWrote at h
    split at h
    · simp at h
    · rename_i u hu; injection h with h; subst h; exact ⟨u, _, rfl, .inr (.inr (.inl ⟨off, v, hop, hu⟩))⟩
  · rename_i off v hop
    unfold hostWrote at h
    split at h
    · simp at h
    · rename_i u hu; injection h with h; subst h; exact ⟨u, _, rfl, .inr (.inr (.inr ⟨off, v, hop, hu⟩))⟩
  · rename_i off n hop
    unfold hostRead at h
    split at h
    · simp at h
    · rename_i v u hu
      injection h with h; subst h
      rcases State.busRead32_cases hu with hu | ⟨hb, _, hu⟩
      · exact ⟨u, _, rfl, .inl hu⟩
      · exact ⟨u, _, rfl, .inr (.inl ⟨hb, hu⟩)⟩
  · rename_i off n hop
    unfold hostRead at h
    split at h
    · simp at h
    · rename_i v u hu
      injection h with h; subst h
      rw [Option.map_eq_some_iff] at hu
      obtain ⟨⟨b, u'⟩, hu, he⟩ := hu
      injection he with _ he; subst he
      rcases State.busRead8_cases hu with hu | ⟨hb, hu⟩
      · exact ⟨u', _, rfl, .inl hu⟩
      · exact ⟨u', _, rfl, .inr (.inl ⟨hb, hu⟩)⟩
  · simp at h
  · rename_i n hop
    unfold hostPolled at h
    split at h
    · simp at h
    · rename_i v u hu
      have hu := State.busRead32_cases hu
      split at h <;> injection h with h <;> subst h
      · rcases hu with hu | ⟨hb, _, hu⟩
        · exact ⟨u, u.host, rfl, .inl hu⟩
        · exact ⟨u, u.host, rfl, .inr (.inl ⟨hb, hu⟩)⟩
      · rcases hu with hu | ⟨hb, _, hu⟩
        · exact ⟨u, _, rfl, .inl hu⟩
        · exact ⟨u, _, rfl, .inr (.inl ⟨hb, hu⟩)⟩
  · unfold State.hostBranch State.hostGoto at h
    split at h
    · simp at h
    · split at h
      · split at h
        · simp at h
        · injection h with h; subst h; exact ⟨s, _, rfl, .inl rfl⟩
      · injection h with h; subst h; exact ⟨s, _, rfl, .inl rfl⟩
  · unfold State.hostBranch State.hostGoto at h
    split at h
    · simp at h
    · split at h
      · split at h
        · simp at h
        · injection h with h; subst h; exact ⟨s, _, rfl, .inl rfl⟩
      · injection h with h; subst h; exact ⟨s, _, rfl, .inl rfl⟩
  · injection h with h; subst h; exact ⟨s, _, rfl, .inl rfl⟩
  · injection h with h; subst h; exact ⟨s, s.host, rfl, .inl rfl⟩

/-- All that a step can do: the turn that is next, on the state with that turn taken off. -/
theorem step_cases {s t : State} (h : step s = .next t) :
    (s.nextTurn = .host ∧ hostTurn s.popTurn = .next t) ∨ (s.nextTurn = .codec ∧ codecTurn s.popTurn = .next t) ∨
    (s.nextTurn = .powerOn ∧ t = s.popTurn.powerOnReset) := by
  unfold step runTurn at h
  split at h
  · rename_i hn; exact .inl ⟨hn, h⟩
  · rename_i hn; exact .inr (.inl ⟨hn, h⟩)
  · rename_i hn; injection h with h; exact .inr (.inr ⟨hn, h.symm⟩)

/-! ## The state a turn runs on -/

theorem step_of_host {s : State} (h : s.nextTurn = .host) : step s = hostTurn s.popTurn := by
  rw [step, h]; rfl

theorem step_of_codec {s : State} (h : s.nextTurn = .codec) : step s = codecTurn s.popTurn := by
  rw [step, h]; rfl

theorem step_of_powerOn {s : State} (h : s.nextTurn = .powerOn) : step s = .next s.popTurn.powerOnReset := by
  rw [step, h]; rfl

@[simp] theorem State.popTurn_busy (s : State) : s.popTurn.busy = s.busy := by cases s; rfl
@[simp] theorem State.popTurn_wbByte (s : State) (i : Nat) : s.popTurn.wbByte i = s.wbByte i := by cases s; rfl
@[simp] theorem State.popTurn_hostOp (s : State) : s.popTurn.hostOp = s.hostOp := by cases s; rfl
@[simp] theorem State.popTurn_wbCap (s : State) : s.popTurn.wbCap = s.wbCap := by cases s; rfl
@[simp] theorem State.popTurn_statusWord (s : State) : s.popTurn.statusWord = s.statusWord := by cases s; rfl
@[simp] theorem State.fetchNow_nextTurn (s : State) (c : Word) : (s.fetchNow c).nextTurn = .codec := rfl

/-- Whether an access is a bus error does not depend on the schedule. -/
theorem State.popTurn_busWrite32_eq_none (s : State) (off v : Word) :
    s.popTurn.busWrite32 off v = none ↔ s.busWrite32 off v = none := by
  unfold State.busWrite32; rw [State.popTurn_wbCap]; split <;> (try split) <;> (try split) <;> simp_all

theorem State.popTurn_busWrite8_eq_none (s : State) (off : Word) (v : Byte) :
    s.popTurn.busWrite8 off v = none ↔ s.busWrite8 off v = none := by
  unfold State.busWrite8; rw [State.popTurn_wbCap]; split <;> (try split) <;> (try split) <;> simp_all

theorem State.popTurn_busRead32_eq_none (s : State) (off : Word) :
    s.popTurn.busRead32 off = none ↔ s.busRead32 off = none := by
  unfold State.busRead32; rw [State.popTurn_wbCap]; split <;> (try split) <;> (try split) <;> simp_all

theorem State.popTurn_busRead8_eq_none (s : State) (off : Word) :
    s.popTurn.busRead8 off = none ↔ s.busRead8 off = none := by
  unfold State.busRead8; rw [State.popTurn_wbCap]; split <;> (try split) <;> (try split) <;> simp_all

/-- The command `withFetchWord` places is the one the next step completes. -/
theorem step_fetchNow (s : State) (c : Word) : step (s.fetchNow c) = codecTurn (s.issue c) := rfl

end Sys2Proof.Machine
end

