-- ==== Sys2Proof/Tests/Slice0.lean ====
section
/-! SUPPORT. Small tests: ill-formed terms that the checks refuse, words decoded as 30_encoding.md R107 writes them, one step
per instruction on vectors of 95_test_vectors.md, and a witness for the hypotheses of every obligation that has some. Every
expected value is the spec's own (the vector's number stands in the comment) or a hypothesis of a statement. -/

namespace Sys2Proof.Tests

open Sys2Proof Sys2Proof.Machine Sys2Proof.Claims

/-! ## Helpers -/

/-- The outcome is a next state that passes a check. -/
def nextIs (o : Host.Outcome State Fault Refusal) (p : State → Bool) : Bool :=
  match o with
  | .next t => p t
  | .fault _ => false
  | .refused _ => false

theorem nextIs_spec {o : Host.Outcome State Fault Refusal} {p : State → Bool} (h : nextIs o p = true) :
    ∃ t, o = .next t ∧ p t = true := by
  cases o with
  | next t => exact ⟨t, rfl, h⟩
  | fault r => simp [nextIs] at h
  | refused r => simp [nextIs] at h

/-- The outcome is this fault. -/
def faultIs (o : Host.Outcome State Fault Refusal) (f : Fault) : Bool :=
  match o with
  | .next _ => false
  | .fault g => decide (g = f)
  | .refused _ => false

/-- The state after reset with a byte string at WB[0] and WBLEN = n. -/
def received (bs : List Byte) (n : Word) : State :=
  { State.reset with wb := Memory.writeBytes [] 0 bs, wblen := n }

/-- The state after reset with the host at a one-line program. -/
def atLine (op : HostOp) : State := { State.reset with host := { prog := [op], line := 0, vals := [] } }

/-- One command, as placed by `withFetchWord`, and a check of the state after it. -/
def runs (c : Nat) (s : State) (p : State → Bool) : Bool := nextIs (step (s.withFetchWord 32 c)) p

/-- The header bytes of vector T1. -/
def t1Bytes : List Byte := [0, 0, 0, 0, 0, 0, 0, 0, 0, 0, 0, 0, 0, 0, 0, 0, 0, 0, 0, 4, 0xFF, 0xFB, 0, 0]

/-- The frame of vector T4. -/
def t4Bytes : List Byte :=
  [0, 0, 0, 1, 0, 0, 0, 1, 0, 0, 0, 0, 0, 0, 0, 0x64, 0, 0, 0, 0x19, 0x3B, 0x1E, 0, 0, 0x61, 0x62, 0x63]

/-- The operands of vector T4. -/
def t4Operands : State :=
  { State.reset with seq := 1, ackno := 1, tsLo := 100, len := 3, flags := 1, wb := Memory.writeBytes [] 24 [0x61, 0x62, 0x63] }

/-- The state with the command word `c` in progress and the CODEC's turn next. -/
def running (s : State) (c : Word) : State := { s with cmd := c, phase := .busy c, turns := [.codec] }

/-- The state with the command word `c` in progress and the HOST's turn next. -/
def waiting (s : State) (c : Word) : State := { s with cmd := c, phase := .busy c, turns := [.host] }

/-! ## The checks refuse ill-formed terms -/

theorem test_cap_too_small : capWf 23 = false := by decide
theorem test_cap_too_large : capWf (2 ^ 31 + 1) = false := by decide
theorem test_cap_bounds : capWf 24 = true ∧ capWf (2 ^ 31) = true := by decide
theorem test_frame_length_wrong : Frame.wf ⟨0, 0, 0, 2, 0, 0, 0, [0x61]⟩ = false := by decide
theorem test_cond_bits_reversed : Cond.wf ⟨0, 0, 2, 0⟩ = false := by decide
theorem test_cond_bit_too_high : Cond.wf ⟨0, 32, 32, 0⟩ = false := by decide
theorem test_cond_value_too_wide : Cond.wf ⟨0, 2, 2, 2⟩ = false := by decide
theorem test_beq_label_missing : programWf [.poll 0, .beq ⟨0, 2, 2, 0⟩ 7] = false := by decide
theorem test_bne_name_unread : programWf [.label 7, .bne ⟨0, 2, 2, 0⟩ 7] = false := by decide
theorem test_label_twice : programWf [.label 7, .label 7] = false := by decide
/-- 95_test_vectors.md P4, line 1: `DO 0x00000009` is `WR32 CMD, 0x00000009` and a POLL. -/
theorem test_do_raw_word : doOp 0x00000009 0 = [.wr32 0x04 0x00000009, .poll 0] := by decide
theorem test_check_is_wf : programWf (check 0 7 ++ [.halt]) = true := by decide

/-! ## Words of 30_encoding.md R107: bits 31..3 zero above OP -/

theorem test_word_encode : decodeTableWord 32 0b00000000000000000000000000000001 = some .encode := by decide
theorem test_word_decode : decodeTableWord 32 0b00000000000000000000000000000010 = some .decode := by decide
theorem test_word_verify : decodeTableWord 32 0b00000000000000000000000000000011 = some .verify := by decide
theorem test_word_csum : decodeTableWord 32 0b00000000000000000000000000000100 = some .csum := by decide
theorem test_word_reserved : decodeTableWord 32 0b000 = none ∧ decodeTableWord 32 0b101 = none ∧
    decodeTableWord 32 0b110 = none ∧ decodeTableWord 32 0b111 = none ∧ decodeTableWord 32 0b1001 = none ∧
    decodeTableWord 32 0b10000000000000000000000000000001 = none := by decide

/-! ## One step per instruction (95_test_vectors.md) -/

/-- T4. -/
theorem test_encode_odd_payload : runs 1 t4Operands (fun t => decide (t.wb = Memory.writeBytes [] 0 t4Bytes ∧
    t.cksum = 0x3B1E ∧ t.wblen = 27 ∧ t.statusWord = 0x02)) = true := by decide
/-- T12. -/
theorem test_encode_len_over_cap : runs 1 { State.reset with len := 513 } (fun t => decide (t.wb = [] ∧ t.wblen = 0 ∧
    t.statusWord = 0x52)) = true := by decide
/-- T13. -/
theorem test_decode_fields : runs 2 (received t4Bytes 27) (fun t => decide (t.seq = 1 ∧ t.ackno = 1 ∧ t.tsHi = 0 ∧
    t.tsLo = 100 ∧ t.len = 3 ∧ t.flags = 1 ∧ t.cksum = 0x3B1E ∧ t.pad = 0 ∧ t.statusWord = 0x02)) = true := by decide
/-- T15. -/
theorem test_decode_short_payload : runs 2 (received t4Bytes 26) (fun t => decide (t.seq = 0 ∧ t.len = 0 ∧
    t.statusWord = 0x42)) = true := by decide
/-- T19d, then T4: the padding 0xFFFF received, and ENCODE of the decoded fields gives the received checksum. -/
theorem test_reencode_padding : runs 2 (received ((t4Bytes.set 22 0xFF).set 23 0xFF) 27) (fun t => decide (t.cksum = 0x3B1E ∧
    t.pad = 0xFFFF) && runs 1 t fun u => decide (u.cksum = 0x3B1E ∧ u.pad = 0)) = true := by decide
/-- T4v. -/
theorem test_verify_valid : runs 3 (received t4Bytes 27) (fun t => decide (t.csres = 0 ∧ t.statusWord = 0x06)) = true := by
  decide
/-- T32. -/
theorem test_verify_one_bit : runs 3 (received (t1Bytes.set 21 0x7B) 24) (fun t => decide (t.csres = 0x0080 ∧
    t.statusWord = 0x02)) = true := by decide
/-- T20. -/
theorem test_csum_even : runs 4 (received [0x00, 0x01, 0xF2, 0x03, 0xF4, 0xF5, 0xF6, 0xF7] 8) (fun t => decide
    (t.csres = 0x220D ∧ t.statusWord = 0x02)) = true := by decide
/-- T36. -/
theorem test_csum_odd : runs 4 (received [0xAB] 1) (fun t => decide (t.csres = 0x54FF)) = true := by decide
/-- T41. -/
theorem test_reserved_word : runs 9 State.reset (fun t => decide (t.statusWord = 0x12 ∧ t.cmd = 9 ∧ t.wb = [])) = true := by
  decide

/-! ## The bus and the HOST -/

/-- T12c: LEN keeps bits 28..0 of a write. -/
theorem test_len_truncates : (State.reset.busWrite32 0x20 0x20000003).map State.len = some 3 := by decide
/-- T45 to T47. -/
theorem test_bus_errors : target32 536 0x80000002 = none ∧ target32 536 0x38 = none ∧ target8 536 0x10 = none := by decide
/-- T48. -/
theorem test_window_lanes : ((received t1Bytes 24).busRead32 0x80000014).map Prod.fst = some 0xFFFB0000 := by decide
/-- T43 and T44: a write while busy is dropped and sets OVR; writing 8 to STATUS clears it. -/
theorem test_overrun : ((waiting State.reset 3).busWrite32 0x10 0x1234).map (fun u => (u.seq, u.status.ovr)) = some (0, true) ∧
    ({ State.reset with status := { done := false, valid := false, ovr := true, err := 0 } }.busWrite32 0x08 8).map
      State.statusWord = some 0 := by decide
/-- T49: the registers after a soft reset during ENCODE. -/
theorem test_soft_reset_abandons : ((waiting t4Operands 1).busWrite32 0x00 1).map (fun u => (u.seq, u.phase, u.statusWord)) =
    some (0, .idle, 0) := by decide
/-- 20_memory.md R64: the host's access faults. -/
theorem test_host_bus_error : faultIs (step (atLine (.rd32 0x80000002 0))) (.busError (.read32 0x80000002)) = true := by decide

/-! ## Witnesses: the hypotheses of each obligation can be met -/

theorem witness_DecodeEncodeAgree : (Instr.csum).wf = true ∧ decode 4 = .ok .csum := ⟨rfl, rfl⟩

theorem witness_OpcodeMapSelects : (9 : Word).extractLsb' 3 29 ≠ 0 ∧ (4 : Word).extractLsb' 3 29 = 0 ∧
    (4 : Word).extractLsb' 0 3 = 0b100 ∧ (7 : Word).extractLsb' 0 3 = 0b111 ∧ (7 : Word).extractLsb' 3 29 = 0 ∧
    (running State.reset 5).phase = .busy 5 := by decide

theorem witness_StepRunsDecodedCommand : (running State.reset 2).phase = .busy 2 ∧ (running State.reset 2).nextTurn = .codec ∧
    decodeTableWord 32 2 = some .decode ∧ State.nextTurn { State.reset with turns := [.codec] } = .codec := by decide

theorem witness_ReservedWordCompletesIllegal : State.reset.busy = false ∧ (0x80000001 : Word).extractLsb' 3 29 ≠ 0 ∧
    (0 : Word).extractLsb' 0 3 = 0b000 ∧ (5 : Word).extractLsb' 0 3 = 0b101 ∧ (6 : Word).extractLsb' 0 3 = 0b110 := by decide

/-- T12 and T12b: the largest length that fits, and the next one. -/
theorem witness_EncodeWritesFrame : 24 + (512 : BitVec 29).toNat ≤ State.reset.cap.toNat ∧
    State.reset.cap.toNat < 24 + (513 : BitVec 29).toNat := by decide

theorem witness_EncodeIsDeterministic : sameEncodeInputs t4Operands { t4Operands with cksum := 7, wblen := 9 } ∧
    (∃ t, exec .encode t4Operands = .next t ∧ decide (t.status.err = 0) = true) ∧
    ∃ u, exec .encode { t4Operands with cksum := 7, wblen := 9 } = .next u ∧ decide (u.status.err = 0) = true :=
  ⟨⟨rfl, rfl, rfl, rfl, rfl, rfl, rfl, fun _ _ _ => rfl⟩, nextIs_spec (by decide), nextIs_spec (by decide)⟩

theorem witness_EncodedFieldsAreBigEndian : 24 + t4Operands.len.toNat ≤ t4Operands.cap.toNat := by decide

/-- T6. -/
theorem witness_NoZeroSubstitution : let s : State := { State.reset with seq := 0xFFFF0000 }
    24 + s.len.toNat ≤ s.cap.toNat ∧ fold (wordSum (frameBytes (s.frameToSend 0))) = 0xFFFF := by decide

theorem witness_MalformedFrameExactly : (23 : Word).toNat ≤ State.reset.cap.toNat ∧
    (received t4Bytes 26).wblen.toNat ≤ (received t4Bytes 26).cap.toNat ∧ 24 ≤ (received t4Bytes 26).wblen.toNat ∧
    (received t4Bytes 26).wblen.toNat < 24 + (wireLen (received t4Bytes 26)).toNat ∧
    ¬ (received t4Bytes 27).wblen.toNat < 24 + (wireLen (received t4Bytes 27)).toNat := by decide

theorem witness_DecodeAfterEncodeRoundTrip : 24 + t4Operands.len.toNat ≤ t4Operands.cap.toNat ∧
    ∃ t, exec .encode t4Operands = .next t ∧ decide (t.status.err = 0) = true :=
  ⟨by decide, nextIs_spec (by decide)⟩

theorem witness_EncodeThenVerifyIsValid : 24 + t4Operands.len.toNat ≤ t4Operands.cap.toNat ∧
    ∃ t, exec .encode t4Operands = .next t ∧ nextIs (exec .verify (t.issue 3)) (fun u => u.status.valid) = true :=
  ⟨by decide, nextIs_spec (by decide)⟩

theorem witness_ReencodeRewritesSameHeader : ∃ t, exec .decode (received t1Bytes 24) = .next t ∧
    decide (t.status.err = 0 ∧ word2 (received t1Bytes 24) 22 = 0 ∧
      word2 (received t1Bytes 24) 20 = checksum (frameBytes (t.frameToSend 0))) = true := nextIs_spec (by decide)

/-- T1's frame with the padding 0x0001 and the checksum one less: valid, and the padding is not zero. -/
theorem witness_NonzeroPaddingChangesChecksum : let s := received ((t1Bytes.set 21 0xFA).set 23 0x01) 24
    s.wblen.toNat = 24 + (wireLen s).toNat ∧ s.csum16 0 s.wblen.toNat = 0 ∧ word2 s 22 ≠ 0 ∧
    nextIs (exec .decode s) (fun t => decide (t.status.err = 0) &&
      nextIs (exec .encode (t.issue 1)) (fun u => decide (u.cksum ≠ t.cksum))) = true := by decide

theorem witness_DecodeVerifyOrderFree :
    nextIs (exec .decode ((received t4Bytes 27).issue 2)) (fun a => nextIs (exec .verify (a.issue 3)) fun b => b.status.valid)
      = true ∧
    nextIs (exec .verify ((received t4Bytes 27).issue 3)) (fun c => nextIs (exec .decode (c.issue 2)) fun d =>
      decide (d.status.err = 0)) = true := by decide

theorem witness_DecodeIgnoresTrailingBytes : (28 : Word).toNat ≤ (received t4Bytes 27).cap.toNat ∧
    24 + (wireLen (received t4Bytes 27)).toNat ≤ (27 : Word).toNat ∧
    24 + (wireLen (received t4Bytes 27)).toNat ≤ (28 : Word).toNat := by decide

/-- T17. -/
theorem witness_WblenOverCapFails : (received [] 537).cap.toNat < (received [] 537).wblen.toNat ∧
    ¬ (received [] 536).cap.toNat < (received [] 536).wblen.toNat ∧
    nextIs (exec .csum (received [] 537)) (fun t => decide (t.status.err = 2)) = true := by decide

theorem witness_EndAroundCarryGivesFold : (wordsOf [0xFF, 0xFF, 0x00, 0x01])[1]? = some 1 := by decide

theorem witness_NarrowAccumulatorsAgree : ([0xFF, 0xFF, 0xAB] : List Byte).length ≤ 65536 ∧
    (List.replicate 131074 (0xFF : Byte)).length ≤ 131074 := ⟨by decide, le_of_eq List.length_replicate⟩

/-- Bytes beyond the frame are the same draws in both buffers. -/
theorem flip_beyond (k : Nat) (h : 24 ≤ k) :
    (received (t1Bytes.set 21 0x7B) 24).wbByte k = (received t1Bytes 24).wbByte k := by
  have e : ∀ bs : List Byte, bs.length = 24 → cellGet? (Memory.writeBytes [] 0 bs) k = none := by
    intro bs hb
    have : ∀ (bs : List Byte) (a : Nat), a + bs.length ≤ k → cellGet? (cellsFrom a bs) k = none := by
      intro bs
      induction bs with
      | nil => intro a _; rfl
      | cons b bs ih =>
        intro a ha
        simp only [List.length_cons] at ha
        rw [cellsFrom, cellGet?, if_neg (by omega)]
        exact ih (a + 1) (by omega)
    simpa [Memory.writeBytes, cellsWrite] using this bs 0 (by omega)
  simp only [State.wbByte, received]
  rw [e _ (by decide), e _ (by decide)]

/-- T1's frame and the same with one bit of the checksum field inverted (T32). -/
theorem witness_SingleBitFlipDetected : let s := received t1Bytes 24; let r := received (t1Bytes.set 21 0x7B) 24
    s.wblen.toNat ≤ s.cap.toNat ∧ s.csum16 0 s.wblen.toNat = 0 ∧ 21 < s.wblen.toNat ∧ r.cap = s.cap ∧ r.wblen = s.wblen ∧
    (∀ k, k ≠ 21 → r.wbByte k = s.wbByte k) ∧ r.wbByte 21 = s.wbByte 21 ^^^ (1#8 <<< 7) ∧
    ∃ t, exec .verify r = .next t ∧ decide (t.csres = 2 ^ 7) = true := by
  refine ⟨by decide, by decide, by decide, rfl, rfl, fun k hk => ?_, by decide, nextIs_spec (by decide)⟩
  by_cases h : k < 24
  · have : ∀ k < 24, k ≠ 21 → (received (t1Bytes.set 21 0x7B) 24).wbByte k = (received t1Bytes 24).wbByte k := by decide
    exact this k h hk
  · exact flip_beyond k (by omega)

theorem witness_UndetectedChanges : 0 < wordSum [0xFF, 0xFF] ∧ 0 < wordSum [0xFF, 0xFE, 0x00, 0x01] ∧
    wordSum [0xFF, 0xFF] % 65535 = wordSum [0xFF, 0xFE, 0x00, 0x01] % 65535 ∧
    ([0x00, 0x00, 0x00, 0x01] : List Byte)[1]? = some 0x00 ∧ ([0x00, 0x00, 0x00, 0x01] : List Byte)[3]? = some 0x01 ∧
    (0x00 : Byte).getLsbD 0 = false ∧ (0x01 : Byte).getLsbD 0 = true ∧ ([0x00, 0x01] : List Byte).length % 2 = 0 ∧
    0 < wordSum ([0x00, 0x01] ++ [0x00, 0x00] ++ []) ∧ (wordsOf [0, 1, 0, 2]).Perm (wordsOf [0, 2, 0, 1]) := by decide

theorem witness_FailedCommandWritesOnlyStatus : (∃ t, exec .encode { State.reset with len := 513 } = .next t ∧
    decide (t.status.err ≠ 0) = true) ∧ (running State.reset 9).phase = .busy 9 ∧
    ∃ t, codecTurn (running State.reset 9) = .next t ∧ decide (t.status.err ≠ 0) = true :=
  ⟨nextIs_spec (by decide), rfl, nextIs_spec (by decide)⟩

theorem witness_CommandFrames : ∀ i : Instr, ∃ t, exec i t4Operands = .next t ∧ true = true
  | .encode => nextIs_spec (p := fun _ => true) (by decide)
  | .decode => nextIs_spec (p := fun _ => true) (by decide)
  | .verify => nextIs_spec (p := fun _ => true) (by decide)
  | .csum => nextIs_spec (p := fun _ => true) (by decide)

theorem witness_idle : State.reset.busy = false ∧ State.reset.phase = .idle := by decide

/-- The first and the last byte, and the first and the last aligned word, of WB; the first byte beyond it. -/
theorem witness_WindowAccessesBigEndian : 533 % 4 ≠ 0 ∧ State.reset.cap.toNat ≤ 533 + 3 ∧ State.reset.cap.toNat ≤ 536 ∧
    State.reset.busy = false ∧ 0 < State.reset.cap.toNat ∧ 535 < State.reset.cap.toNat ∧
    ¬ 536 < State.reset.cap.toNat ∧ 532 % 4 = 0 ∧ 532 + 3 < State.reset.cap.toNat ∧ 0 + 3 < State.reset.cap.toNat := by decide

theorem witness_BusErrorsExactly : target32 536 0x34 = some (.reg .wblen) ∧ target32 536 0x38 = none ∧
    target32 536 0x80000214 = some (.wb 532) ∧ target32 536 0x80000218 = none ∧ target8 536 0x80000217 = some 535 ∧
    target8 536 0x80000218 = none ∧ target8 536 0x7FFFFFFF = none := by decide

theorem witness_BusyReadsAreDraws : (waiting State.reset 1).busy = true ∧
    (waiting State.reset 1).busRead32 0x10 = some (Config.freeWord 1, { waiting State.reset 1 with draws := 2 }) ∧
    (waiting State.reset 1).busRead8 0x80000217 = some (Config.freeByte 1 535, { waiting State.reset 1 with draws := 2 }) :=
  ⟨rfl, rfl, rfl⟩

theorem witness_BusyWritesDropped : (waiting State.reset 1).busy = true ∧
    ((waiting State.reset 1).busWrite32 0x0C 5).isSome = true ∧ ((waiting State.reset 1).busWrite32 0x80000214 5).isSome = true ∧
    ((waiting State.reset 1).busWrite8 0x80000217 5).isSome = true ∧ (6 : Word).getLsbD 0 = false ∧
    (7 : Word).getLsbD 0 = true := by decide

theorem witness_SoftResetEffect : (1 : Word).getLsbD 0 = true ∧ (0xFFFFFFFE : Word).getLsbD 0 = false ∧
    (waiting State.reset 1).phase = .busy 1 ∧ (waiting State.reset 2).phase ≠ .busy 1 := by decide

theorem witness_PowerOnResetEffect : State.nextTurn { State.reset with turns := [.powerOn] } = .powerOn := by decide

theorem witness_BusErrorIsHostFault :
    (atLine (.wr32 0x38 1)).nextTurn = .host ∧ (atLine (.wr32 0x38 1)).busWrite32 0x38 1 = none ∧
    (atLine (.wr8 0x10 1)).busWrite8 0x10 1 = none ∧ (atLine (.rd32 0x80000218 0)).busRead32 0x80000218 = none ∧
    (atLine (.rd8 0x80000218 0)).busRead8 0x80000218 = none ∧ (atLine (.other .bits16 0)).hostOp = .other .bits16 0 ∧
    faultIs (step (atLine (.other .bits16 0))) (.busError (.other .bits16 0)) = true := by decide

theorem witness_AccessLinesAct : (atLine (.wr32 0x34 24)).hostOp = .wr32 0x34 24 ∧
    ((atLine (.wr32 0x34 24)).busWrite32 0x34 24).isSome = true ∧ (atLine (.wr8 0x80000217 1)).hostOp = .wr8 0x80000217 1 ∧
    ((atLine (.wr8 0x80000217 1)).busWrite8 0x80000217 1).isSome = true ∧
    (atLine (.rd32 0x80000214 0)).hostOp = .rd32 0x80000214 0 ∧
    ((atLine (.rd32 0x80000214 0)).busRead32 0x80000214).isSome = true ∧
    (atLine (.rd8 0x80000217 0)).hostOp = .rd8 0x80000217 0 ∧
    ((atLine (.rd8 0x80000217 0)).busRead8 0x80000217).isSome = true := by decide

theorem witness_PollBranchHalt : (waiting (atLine (.poll 0)) 3).hostOp = .poll 0 ∧ (waiting (atLine (.poll 0)) 3).busy = true ∧
    (atLine (.poll 0)).busy = false ∧ cellGet? [(0, (6 : Word))] 0 = some 6 ∧
    labelLine [.beq (notValid 0) 7, .label 7] 7 = some 1 ∧ (atLine (.label 7)).hostOp = .label 7 ∧
    State.reset.hostOp = .halt := by decide

theorem witness_EndOfRun : State.reset.runEnded = true ∧ State.reset.nextTurn ≠ .powerOn ∧
    (running State.reset 3).runEnded = false := by decide

/-- The state after the valid VERIFY of vector T31. -/
def verified : State :=
  { received [0xFF, 0xFF] 2 with cmd := 3, status := { done := true, valid := true, ovr := false, err := 0 } }

theorem witness_StepKeepsInvariant : verified.Inv ∧ ∃ t, step verified = .next t ∧ true = true := by
  refine ⟨⟨by decide, by decide, by decide, by decide, by decide, ?_, ?_, ?_, ?_, ?_, ?_, ?_, ?_, ?_⟩, nextIs_spec (p := fun _ => true) (by decide)⟩
  · intro c h; simp [verified, received, State.reset, State.resetWithCap] at h
  · intro h; simp [verified] at h
  · intro h; simp [verified] at h
  · intro _; decide
  · intro _ _ _; decide
  · intro _
    constructor
    · intro h; exact absurd h (by decide)
    · intro h; exact absurd rfl (h .verify)
  · intro h; revert h; decide
  · intro h; revert h; decide
  · intro h; revert h; decide

theorem witness_CapIsHardwired : State.reset.busy = false ∧ ∃ t, step (atLine (.wr32 0x0C 7)) = .next t ∧
    decide (t.cap = 536) = true := ⟨rfl, nextIs_spec (by decide)⟩

theorem witness_ResetHasInvariant : 24 ≤ (24 : Word).toNat ∧ (0x80000000 : Word).toNat ≤ 2 ^ 31 := by decide

/-- A host write and an ENCODE each change a byte of WB. -/
theorem witness_WbChangesOnlyByRule : let s := { received [0x00] 1 with host := (atLine (.wr8 0x80000000 0x61)).host }
    (∃ t, step s = .next t ∧ decide (t.wbByte 0 ≠ s.wbByte 0) = true) ∧
    ∃ t, step (running { received t1Bytes 24 with seq := 1 } 1) = .next t ∧ decide (t.wbByte 3 ≠ 0) = true :=
  ⟨nextIs_spec (by decide), nextIs_spec (by decide)⟩

theorem witness_OvrIsSticky : (waiting (atLine (.wr32 0x10 1)) 3).nextTurn = .host ∧
    (waiting (atLine (.wr32 0x10 1)) 3).busy = true ∧ (waiting (atLine (.wr32 0x10 1)) 3).status.ovr = false ∧
    (∃ t, step (waiting (atLine (.wr32 0x10 1)) 3) = .next t ∧ t.status.ovr = true) ∧
    ∃ t, step { atLine (.wr32 0x08 8) with status := { done := true, valid := false, ovr := true, err := 0 } } = .next t ∧
      (!t.status.ovr) = true :=
  ⟨rfl, rfl, rfl, nextIs_spec (by decide), nextIs_spec (by decide)⟩

theorem witness_ValidOnlyByVerify : softResetNext (atLine (.wr32 0x00 1)) ∧
    State.nextTurn { State.reset with turns := [.powerOn] } = .powerOn ∧ (∃ t, step (running (received [0xFF, 0xFF] 2) 3) = .next t ∧ t.status.valid = true) ∧
    (∃ t, step (running (received [0xFF, 0xFF] 2) 4) = .next t ∧ (!t.status.valid) = true) ∧
    ∃ t, step (atLine (.wr32 0x04 3)) = .next t ∧ t.busy = true :=
  ⟨⟨rfl, 1, rfl, rfl⟩, rfl, nextIs_spec (by decide), nextIs_spec (by decide), nextIs_spec (by decide)⟩

theorem witness_RunningCommandInputsFixed : (waiting (atLine (.wr32 0x10 1)) 3).phase = .busy 3 ∧
    (waiting (atLine (.wr32 0x10 1)) 3).nextTurn = .host ∧ ¬ softResetNext (waiting (atLine (.wr32 0x10 1)) 3) ∧
    ∃ t, step (waiting (atLine (.wr32 0x10 1)) 3) = .next t ∧ true = true := by
  refine ⟨rfl, rfl, ?_, nextIs_spec (p := fun _ => true) (by decide)⟩
  intro ⟨_, v, h, _⟩
  simp [State.hostOp, waiting, atLine] at h

theorem witness_CodecStepCompletes : (running t4Operands 1).phase = .busy 1 ∧ (running t4Operands 1).nextTurn = .codec := by
  decide

theorem witness_CommandEventuallyCompletes : let s := { waiting (atLine (.poll 0)) 3 with turns := [.host, .host] }
    s.phase = .busy 3 ∧ (∀ x ∈ s.turns, x = .host) ∧ s.hostOp = .poll 0 ∧ nextIs (core.run 3 s) (fun t => t.status.done) = true := by
  decide

end Sys2Proof.Tests
end

section
/-! PROOFS, state family. Command words: the decoder and the encoder are inverse to each other (30_encoding.md R106, R107),
and which error code a command word can complete with (60_exceptions.md R182 to R187). -/

namespace Sys2Proof

@[simp] theorem decode_encode (i : Instr) : decode (encode i) = .ok i := by cases i <;> decide

theorem encode_injective {i j : Instr} (h : encode i = encode j) : i = j := by
  simpa using congrArg decode h

/-- A word is its two fields (30_encoding.md R106). -/
theorem cmdRsvd_append_cmdOp (c : Word) : cmdRsvd c ++ cmdOp c = c := BitVec.extractLsb'_append_extractLsb'

/-- Only a command's own word decodes to it. -/
theorem eq_encode_of_decode {c : Word} {i : Instr} (h : decode c = .ok i) : c = encode i := by
  have word {o : BitVec 3} (hr : ¬ cmdRsvd c ≠ 0) (ho : cmdOp c = o) : c = 0#29 ++ o := by
    rw [← cmdRsvd_append_cmdOp c, not_ne_iff.mp hr, ho]; rfl
  unfold decode at h
  split at h
  · cases h
  · rename_i hr
    repeat' split at h
    all_goals cases h
    all_goals exact word hr ‹_›

theorem ne_encode_of_decode_error {c : Word} {r : DecodeReject} (h : decode c = .error r) (i : Instr) : c ≠ encode i := by
  rintro rfl
  simp at h

namespace Machine

@[simp] theorem Err.code_inj {e f : Err} : e.code = f.code ↔ e = f := by cases e <;> cases f <;> decide

@[simp] theorem Err.code_eq_zero {e : Err} : e.code = 0 ↔ e = .ok := Err.code_inj (f := .ok)

theorem Err.code_le (e : Err) : e.code.toNat ≤ 5 := by cases e <;> decide

/-- The command words that can complete with an error code (60_exceptions.md R182 to R187). -/
def Err.reportedFor : Err → Word → Prop
  | .ok, c => ∃ i, c = encode i
  | .illegalCmd, c => ∀ i, c ≠ encode i
  | .wblenOverCap, c => c = encode .decode ∨ c = encode .verify ∨ c = encode .csum
  | .shortHeader, c => c = encode .decode
  | .shortPayload, c => c = encode .decode
  | .lenOverCap, c => c = encode .encode

/-- Every code but ILLEGAL_CMD is a command's. -/
theorem Err.reportedFor_command {e : Err} {c : Word} (h : e.reportedFor c) (he : e ≠ .illegalCmd) : ∃ i, c = encode i := by
  cases e
  case ok => exact h
  case illegalCmd => exact absurd rfl he
  case wblenOverCap => rcases h with h | h | h <;> exact ⟨_, h⟩
  case shortHeader => exact ⟨_, h⟩
  case shortPayload => exact ⟨_, h⟩
  case lenOverCap => exact ⟨_, h⟩

/-- ILLEGAL_CMD is reported exactly for the reserved words (60_exceptions.md R183). -/
theorem Err.reportedFor_illegalCmd_iff {e : Err} {c : Word} (h : e.reportedFor c) :
    e = .illegalCmd ↔ ∀ i, c ≠ encode i := by
  constructor
  · rintro rfl; exact h
  · intro hc
    by_contra he
    obtain ⟨i, hi⟩ := Err.reportedFor_command h he
    exact hc i hi

end Machine
end Sys2Proof
end

section
/-! PROOFS, state family. All that the completion of any command can do, once for the four commands. -/

namespace Sys2Proof.Machine

/-- A command's writes other than STATUS and PHASE when it completes without error (40_frame_codec.md R121, R123;
41_checksum.md R155, R156). -/
def State.results (s : State) : Instr → State
  | .encode => s.writeFrame
  | .decode => s.readFrame
  | .verify => s.setCsres (s.csum16 0 s.wblen.toNat)
  | .csum => s.setCsres (s.csum16 0 s.wblen.toNat)

/-- A command completes without error and with its results, VALID set only by a VERIFY that finds 0x0000, or it fails with
a code of its own. -/
theorem exec_cases {i : Instr} {s t : State} (h : exec i s = .next t) :
    (∃ v, (v = true ↔ i = .verify ∧ (s.results i).csres = 0) ∧ t = (s.results i).complete .ok v) ∨
    ∃ e, e ≠ .ok ∧ e.reportedFor (encode i) ∧ t = s.raiseErr e := by
  cases i
  case encode =>
    rcases execEncode_cases h with ⟨-, ht⟩ | ⟨-, ht⟩
    · exact .inr ⟨.lenOverCap, nofun, rfl, ht⟩
    · exact .inl ⟨_, by simp, ht⟩
  case decode =>
    rcases execDecode_cases h with ⟨-, ht⟩ | ⟨-, -, ht⟩ | ⟨-, -, -, ht⟩ | ⟨-, -, ht⟩
    · exact .inr ⟨.wblenOverCap, nofun, .inl rfl, ht⟩
    · exact .inr ⟨.shortHeader, nofun, rfl, ht⟩
    · exact .inr ⟨.shortPayload, nofun, rfl, ht⟩
    · exact .inl ⟨_, by simp, ht⟩
  case verify =>
    rcases execVerify_cases h with ⟨-, ht⟩ | ⟨-, ht⟩
    · exact .inr ⟨.wblenOverCap, nofun, .inr (.inl rfl), ht⟩
    · exact .inl ⟨_, by simp [State.results], ht⟩
  case csum =>
    rcases execCsum_cases h with ⟨-, ht⟩ | ⟨-, ht⟩
    · exact .inr ⟨.wblenOverCap, nofun, .inr (.inr rfl), ht⟩
    · exact .inl ⟨_, by simp, ht⟩

/-! What a command's results leave as it was (10_state.md R47). -/

@[simp] theorem State.results_cap (s : State) (i : Instr) : (s.results i).cap = s.cap := by cases i <;> simp [State.results]
@[simp] theorem State.results_cmd (s : State) (i : Instr) : (s.results i).cmd = s.cmd := by cases i <;> simp [State.results]
@[simp] theorem State.results_status (s : State) (i : Instr) : (s.results i).status = s.status := by
  cases i <;> simp [State.results]
@[simp] theorem State.results_phase (s : State) (i : Instr) : (s.results i).phase = s.phase := by
  cases i <;> simp [State.results]
@[simp] theorem State.results_host (s : State) (i : Instr) : (s.results i).host = s.host := by
  cases i <;> simp [State.results]
@[simp] theorem State.results_turns (s : State) (i : Instr) : (s.results i).turns = s.turns := by
  cases i <;> simp [State.results]
@[simp] theorem State.results_wbDraw (s : State) (i : Instr) : (s.results i).wbDraw = s.wbDraw := by
  cases i <;> simp [State.results]
@[simp] theorem State.results_draws (s : State) (i : Instr) : (s.results i).draws = s.draws := by
  cases i <;> simp [State.results]

theorem State.results_wf {s : State} (i : Instr) (h : Memory.wf s.wb = true) : Memory.wf (s.results i).wb = true := by
  cases i
  case encode => exact State.writeFrame_wf h
  all_goals simpa [State.results] using h

theorem State.results_within {s : State} {c : Nat} (i : Instr) (h : Memory.within s.wb c = true) (hc : 24 ≤ c) :
    Memory.within (s.results i).wb c = true := by
  cases i
  case encode => exact State.writeFrame_within h hc
  all_goals simpa [State.results] using h

end Sys2Proof.Machine
end

section
/-! PROOFS, state family. All that the HOST's turn can do to the block, down to the register written. -/

namespace Sys2Proof

/-- A write line that a busy block drops: to anything but CTRL and STATUS (20_memory.md R81). -/
def HostOp.droppedWhileBusy (op : HostOp) : Prop :=
  (∃ off v, op = .wr32 off v ∧ off ≠ 0x00 ∧ off ≠ 0x08) ∨ ∃ off b, op = .wr8 off b

namespace Machine

/-- The registers a write reaches also while busy are those at 0x00 and 0x08 (20_memory.md R81). -/
theorem Reg.writableWhileBusy_iff {r : Reg} :
    Reg.writableWhileBusy r = true ↔ Reg.offset r = 0x00 ∨ Reg.offset r = 0x08 := by
  cases r <;> decide

/-- A write of CTRL is the soft reset or nothing (10_state.md R34). -/
theorem State.writeReg_ctrl (s : State) (v : Word) :
    v.getLsbD 0 = true ∧ s.writeReg v .ctrl = s.softReset ∨ v.getLsbD 0 = false ∧ s.writeReg v .ctrl = s := by
  cases hv : v.getLsbD 0
  · exact .inr ⟨rfl, if_neg (by rw [hv]; decide)⟩
  · exact .inl ⟨rfl, if_pos hv⟩

/-- A write of a register that is writable now (20_memory.md R71, R81). -/
theorem State.busWrite32_offset {s : State} {r : Reg} (h : s.busy = true → Reg.writableWhileBusy r = true) (v : Word) :
    s.busWrite32 (Reg.offset r) v = some (s.writeReg v r) := by
  rw [State.busWrite32, target32_offset]
  exact if_neg (by simpa using h)

/-- A WR32 line goes on with the state its write leaves. -/
theorem hostTurn_of_wr32 {s t : State} {off v : Word} (hop : s.hostOp = .wr32 off v) (h : hostTurn s = .next t) :
    ∃ u, s.busWrite32 off v = some u ∧ t = u.hostNext := by
  rw [hostTurn, hop, hostLine] at h
  cases hu : s.busWrite32 off v <;> rw [hu] at h <;> cases h
  exact ⟨_, rfl, rfl⟩

/-- A WR8 line goes on with the state its write leaves. -/
theorem hostTurn_of_wr8 {s t : State} {off : Word} {v : Byte} (hop : s.hostOp = .wr8 off v) (h : hostTurn s = .next t) :
    ∃ u, s.busWrite8 off v = some u ∧ t = u.hostNext := by
  rw [hostTurn, hop, hostLine] at h
  cases hu : s.busWrite8 off v <;> rw [hu] at h <;> cases h
  exact ⟨_, rfl, rfl⟩

/-- What a HOST's turn at `s` can make of the block. -/
inductive HostEffect (s : State) : State → Prop
  /-- No access, or a read. -/
  | unchanged : HostEffect s s
  /-- A read while busy that takes a draw (20_memory.md R65). -/
  | draw (busy : s.busy = true) : HostEffect s s.draw
  /-- A write that the busy block drops (20_memory.md R81). -/
  | drop (busy : s.busy = true) (dropped : s.hostOp.droppedWhileBusy) : HostEffect s s.dropWrite
  /-- An accepted write of a register (20_memory.md R71). -/
  | writeReg (r : Reg) (v : Word) (line : s.hostOp = .wr32 (Reg.offset r) v)
      (accepted : s.busy = true → Reg.writableWhileBusy r = true) : HostEffect s (s.writeReg v r)
  /-- A write of bytes of WB (20_memory.md R63). -/
  | writeWb (i n k : Nat) (idle : s.busy = false) (inWb : i + n ≤ s.wbCap) : HostEffect s (s.memWrite i n k)

/-- Beside its effect on the block, the HOST's turn changes only the host's own state. -/
theorem hostTurn_effect {s t : State} (h : hostTurn s = .next t) : ∃ u a, t = { u with host := a } ∧ HostEffect s u := by
  obtain ⟨u, a, ht, hu⟩ := hostTurn_cases h
  refine ⟨u, a, ht, ?_⟩
  rcases hu with rfl | ⟨hb, rfl⟩ | ⟨off, v, hop, hu⟩ | ⟨off, v, hop, hu⟩
  · exact .unchanged
  · exact .draw hb
  · rcases State.busWrite32_cases hu with ⟨hb, hr, rfl⟩ | ⟨r, rfl, hr, rfl⟩ | ⟨hb, i, -, -, hi, rfl⟩
    · have h0 : off ≠ 0x00 := by rintro rfl; cases hr .ctrl rfl
      have h8 : off ≠ 0x08 := by rintro rfl; cases hr .status rfl
      exact .drop hb (.inl ⟨off, v, hop, h0, h8⟩)
    · exact .writeReg r v hop hr
    · exact .writeWb i 4 v.toNat hb hi
  · rcases State.busWrite8_cases hu with ⟨hb, rfl⟩ | ⟨hb, i, -, hi, rfl⟩
    · exact .drop hb (.inr ⟨off, v, hop⟩)
    · exact .writeWb i 1 v.toNat hb hi

end Machine
end Sys2Proof
end

section
/-! PROOFS, state family. The invariant of the machine (Safety.lean): each operation on the block keeps it, and so does each
turn. -/

namespace Sys2Proof.Machine

/-- The capacities of 00_scope.md R9. -/
theorem capWf_iff {n : Nat} : capWf n = true ↔ 24 ≤ n ∧ n ≤ 2 ^ 31 := by
  rw [capWf, Bool.and_eq_true, decide_eq_true_iff, decide_eq_true_iff]
  rfl

theorem State.Inv.minCap_le {s : State} (h : s.Inv) : 24 ≤ s.wbCap := (capWf_iff.mp h.capacity).1

/-- With DONE, VALID and ERR all 0, as a reset and an issue leave them, the invariant says nothing of a result: what is left
is WB, the word of a command in progress, and the reset values while idle. -/
theorem State.Inv.of_cleared {s : State} (capacity : capWf s.wbCap = true) (canonical : Memory.wf s.wb = true)
    (inWb : Memory.within s.wb s.wbCap = true) (drawTaken : s.wbDraw < s.draws)
    (hd : s.status.done = false) (hv : s.status.valid = false) (he : s.status.err = 0)
    (hc : ∀ c, s.phase = .busy c → c = s.cmd)
    (hn : s.busy = false → s.cmd = 0 ∧ s.cksum = 0 ∧ s.pad = 0 ∧ s.csres = 0) : s.Inv where
  capacity := capacity
  canonical := canonical
  inWb := inWb
  drawTaken := drawTaken
  errCode := by simp [he]
  busyWord c hp := ⟨hc c hp, hd⟩
  notDone _ := ⟨hv, he⟩
  neverRun _ := hn
  validWord h := by simp [hv] at h
  verifyResult h := by simp [hd] at h
  illegalWord h := by simp [hd] at h
  overCapWord h := by rw [he] at h; cases h
  malformedWord h := by rw [he] at h; rcases h with h | h <;> cases h
  lenOverCapWord h := by rw [he] at h; cases h

/-- A completion keeps the invariant when its code can be reported for the word in CMD and VALID is as 41_checksum.md R156
says. -/
theorem State.Inv.complete {s : State} {e : Err} {v : Bool} (h : s.Inv) (he : e.reportedFor s.cmd)
    (hv : v = true ↔ e = .ok ∧ s.cmd = encode .verify ∧ s.csres = 0) : (s.complete e v).Inv where
  capacity := h.capacity
  canonical := h.canonical
  inWb := h.inWb
  drawTaken := h.drawTaken
  errCode := e.code_le
  busyWord := nofun
  notDone := nofun
  neverRun := nofun
  validWord hvalid := by
    obtain ⟨rfl, hword, -⟩ := hv.mp hvalid
    exact ⟨hword, rfl⟩
  verifyResult _ herr hword := hv.trans (by
    simp only [State.complete_cmd, State.complete_csres] at hword ⊢
    simp [Err.code_eq_zero.mp herr, hword])
  illegalWord _ := Err.code_inj.trans (Err.reportedFor_illegalCmd_iff he)
  overCapWord herr := by
    cases Err.code_inj.mp herr
    exact he
  malformedWord herr := by
    rcases herr with herr | herr <;> cases Err.code_inj.mp herr <;> exact he
  lenOverCapWord herr := by
    cases Err.code_inj.mp herr
    exact he

theorem State.Inv.raiseErr {s : State} {e : Err} (h : s.Inv) (hok : e ≠ .ok) (he : e.reportedFor s.cmd) :
    (s.raiseErr e).Inv := h.complete he (by simp [hok])

/-- While a command is in progress DONE is 0, so its results, CSRES among them, are not yet described by STATUS. -/
theorem State.Inv.results {s : State} {c : Word} (h : s.Inv) (hp : s.phase = .busy c) (i : Instr) : (s.results i).Inv := by
  obtain ⟨hc, hd⟩ := h.busyWord c hp
  obtain ⟨hv, he⟩ := h.notDone hd
  apply State.Inv.of_cleared
  case capacity => simpa [State.wbCap] using h.capacity
  case canonical => exact State.results_wf i h.canonical
  case inWb => simpa [State.wbCap] using State.results_within i h.inWb h.minCap_le
  case drawTaken => simpa using h.drawTaken
  case hn => simp [State.busy, hp]
  all_goals simp_all

/-- The completion of the command in progress keeps the invariant. -/
theorem State.Inv.exec {s t : State} {i : Instr} (h : s.Inv) (hp : s.phase = .busy (encode i)) (ht : exec i s = .next t) :
    t.Inv := by
  have hc : s.cmd = encode i := (h.busyWord _ hp).1.symm
  rcases exec_cases ht with ⟨v, hv, rfl⟩ | ⟨e, hok, he, rfl⟩
  · have hword : encode i = encode .verify ↔ i = .verify := ⟨encode_injective, congrArg _⟩
    exact (h.results hp i).complete (by simpa [hc] using ⟨i, rfl⟩) (by simpa [hc, hword] using hv)
  · exact h.raiseErr hok (hc ▸ he)

/-- The CODEC's turn keeps the invariant. -/
theorem State.Inv.codecTurn {s t : State} (h : s.Inv) (ht : codecTurn s = .next t) : t.Inv := by
  rcases codecTurn_cases ht with ⟨-, rfl⟩ | ⟨c, i, hp, hi, he⟩ | ⟨c, r, hp, hr, rfl⟩
  · exact h
  · exact h.exec (eq_encode_of_decode hi ▸ hp) he
  · have hc : s.cmd = c := (h.busyWord c hp).1.symm
    exact h.raiseErr nofun (hc ▸ ne_encode_of_decode_error hr)

/-! The operations of the HOST's turn and the resets. -/

theorem State.Inv.issue {s : State} (h : s.Inv) (c : Word) : (s.issue c).Inv := by
  apply State.Inv.of_cleared (s := s.issue c) h.capacity h.canonical h.inWb h.drawTaken <;> simp [State.busy]

theorem State.Inv.resetRegisters {s : State} (h : s.Inv) : s.resetRegisters.Inv := by
  apply State.Inv.of_cleared (s := s.resetRegisters) h.capacity h.canonical h.inWb h.drawTaken <;> simp

theorem State.Inv.loseHeader {s : State} (h : s.Inv) : s.loseHeader.Inv :=
  { h with
    canonical := State.loseHeader_wf h.canonical
    inWb := State.loseHeader_within h.inWb h.minCap_le
    drawTaken := Nat.lt_succ_of_lt h.drawTaken }

theorem State.Inv.softReset {s : State} (h : s.Inv) : s.softReset.Inv := by
  rcases s.softReset_eq with he | ⟨-, he⟩ <;> rw [he]
  · exact h.resetRegisters
  · exact h.loseHeader.resetRegisters

theorem State.Inv.powerOnReset {s : State} (h : s.Inv) : s.powerOnReset.Inv := by
  apply State.Inv.of_cleared (s := s.powerOnReset) h.capacity s.powerOnReset_wf <;> simp [Memory.within]

theorem State.Inv.memWrite {s : State} {a n v : Nat} (h : s.Inv) (hn : a + n ≤ s.wbCap) : (s.memWrite a n v).Inv :=
  { h with
    canonical := State.memWrite_wf a n v h.canonical
    inWb := State.memWrite_within h.inWb hn }

theorem State.Inv.draw {s : State} (h : s.Inv) : s.draw.Inv := { h with drawTaken := Nat.lt_succ_of_lt h.drawTaken }

theorem State.Inv.dropWrite {s : State} (h : s.Inv) : s.dropWrite.Inv := { h with }

theorem State.Inv.withHost {s : State} (h : s.Inv) (a : HostAgent) : { s with host := a }.Inv := { h with }

theorem State.Inv.popTurn {s : State} (h : s.Inv) : s.popTurn.Inv := { h with }

/-- Of the accepted register writes only CTRL's and CMD's touch what the invariant speaks of. -/
theorem State.Inv.writeReg {s : State} (h : s.Inv) (v : Word) (r : Reg) : (s.writeReg v r).Inv := by
  cases r
  case ctrl =>
    rcases s.writeReg_ctrl v with ⟨-, hw⟩ | ⟨-, hw⟩ <;> rw [hw]
    · exact h.softReset
    · exact h
  case cmd => exact h.issue v
  all_goals exact { h with }

/-- The HOST's turn keeps the invariant. -/
theorem State.Inv.hostTurn {s t : State} (h : s.Inv) (ht : hostTurn s = .next t) : t.Inv := by
  obtain ⟨u, a, rfl, hu⟩ := hostTurn_effect ht
  apply State.Inv.withHost
  cases hu with
  | unchanged => exact h
  | draw => exact h.draw
  | drop => exact h.dropWrite
  | writeReg r v => exact h.writeReg v r
  | writeWb _ _ _ _ inWb => exact h.memWrite inWb

/-- Settles O47: the step lemma of the invariant, turn by turn. -/
theorem stepKeepsInvariant : Obligations.StepKeepsInvariant := by
  intro s t h hstep
  rcases step_cases hstep with ⟨-, ht⟩ | ⟨-, ht⟩ | ⟨-, rfl⟩
  · exact h.popTurn.hostTurn ht
  · exact h.popTurn.codecTurn ht
  · exact h.popTurn.powerOnReset

/-- The invariant holds after reset at every capacity of 00_scope.md R9. -/
theorem State.Inv.resetWithCap {cap : Word} (h : capWf cap.toNat = true) : (State.resetWithCap cap).Inv := by
  apply State.Inv.of_cleared (s := .resetWithCap cap) h <;> simp [State.resetWithCap, Memory.wf, cellsRising, Memory.within]

/-- Settles O48: the base case of the invariant. -/
theorem resetHasInvariant : Obligations.ResetHasInvariant := by
  exact ⟨fun cap h24 hmax => .resetWithCap (capWf_iff.mpr ⟨h24, hmax⟩), .resetWithCap (by decide)⟩

end Sys2Proof.Machine
end

section
/-! PROOFS, state family. The frame of a command and the registers over the host's bus. -/

namespace Sys2Proof.Machine

/-- Settles O30: a failure changes STATUS and PHASE only, and each command's results leave what 10_state.md R47 says. -/
theorem commandFrames : Obligations.CommandFrames := by
  intro i s t h
  rcases exec_cases h with ⟨v, -, rfl⟩ | ⟨e, -, -, rfl⟩
  case inl =>
    cases i
    case encode => simp +contextual [State.results, State.wbByte_writeFrame_of_payload]
    all_goals simp [State.results]
  case inr => simp

/-! STATUS as read. -/

/-- STATUS bit by bit (10_state.md R37); above ERR[3] there is nothing. -/
theorem State.getLsbD_statusWord (s : State) (k : Nat) : s.statusWord.getLsbD k =
    if k = 0 then s.busy else if k = 1 then s.status.done else if k = 2 then s.status.valid else if k = 3 then s.status.ovr
    else s.status.err.getLsbD (k - 4) := by
  unfold State.statusWord
  iterate 5 rw [BitVec.getLsbD_append]
  rcases k with _ | _ | _ | _ | k
  case succ.succ.succ.succ => simpa using BitVec.lt_of_getLsbD
  all_goals simp

/-- Settles O33: each field is read off the bits of STATUS. -/
theorem statusWordFields : Obligations.StatusWordFields := by
  intro s
  have bit := s.getLsbD_statusWord
  have high (k : Nat) : s.statusWord.getLsbD (k + 4) = s.status.err.getLsbD k := by simpa using bit (k + 4)
  refine ⟨by rw [bit 0]; exact State.busy_iff, bit 1, bit 2, bit 3, ?_, ?_⟩
  · apply BitVec.eq_of_getLsbD_eq
    intro k hk
    simp [hk, Nat.add_comm 4, high]
  · apply BitVec.eq_of_getLsbD_eq
    intro k hk
    simp [show 8 + k = k + 4 + 4 by omega, high]

/-- STATUS reads 0 after a reset (10_state.md R46). -/
theorem State.statusWord_of_cleared {s : State} (hs : s.status = Status.cleared) (hp : s.phase = .idle) :
    s.statusWord = 0 := by
  rw [State.statusWord, State.busy_of_idle hp, hs]
  rfl

/-! Register accesses. -/

/-- A read of a register that is readable now (10_state.md R71, 20_memory.md R65). -/
theorem State.busRead32_offset {s : State} {r : Reg} (h : s.busy = true → Reg.readableWhileBusy r = true) :
    s.busRead32 (Reg.offset r) = some (s.readReg r, s) := by
  rw [State.busRead32, target32_offset]
  exact if_neg (by simpa using h)

theorem State.busRead32_offset_of_idle {s : State} (h : s.busy = false) (r : Reg) :
    s.busRead32 (Reg.offset r) = some (s.readReg r, s) := State.busRead32_offset (by simp [h])

theorem State.busWrite32_offset_of_idle {s : State} (h : s.busy = false) (v : Word) (r : Reg) :
    s.busWrite32 (Reg.offset r) v = some (s.writeReg v r) := State.busWrite32_offset (by simp [h]) v

/-- Zero extension puts zeros above (10_state.md R22: reserved bits read 0). -/
theorem setWidth_add_eq_zero_append {w : Nat} (k : Nat) (x : BitVec w) : x.setWidth (k + w) = 0#k ++ x := by
  apply BitVec.eq_of_toNat_eq
  have hx : x.toNat < 2 ^ (k + w) := x.isLt.trans_le (Nat.pow_le_pow_right (by decide) (by omega))
  simp [BitVec.toNat_append, Nat.mod_eq_of_lt hx]

/-- Settles O32: the register map read row by row. -/
theorem idleRegisterReads : Obligations.IdleRegisterReads := by
  intro s h
  have read := State.busRead32_offset_of_idle h
  refine ⟨read .ctrl, read .cmd, read .status, read .cap, read .seq, read .ackno, read .tsHi, read .tsLo, ?_, ?_, ?_, ?_, ?_,
    read .wblen⟩
  · rw [← setWidth_add_eq_zero_append]; exact read .len
  · rw [← setWidth_add_eq_zero_append]; exact read .flags
  · rw [← setWidth_add_eq_zero_append]; exact read .cksum
  · rw [← setWidth_add_eq_zero_append]; exact read .pad
  · rw [← setWidth_add_eq_zero_append]; exact read .csres

/-- Settles O34: the register map written row by row. -/
theorem idleRegisterWrites : Obligations.IdleRegisterWrites := by
  intro s v h
  have write := State.busWrite32_offset_of_idle h v
  refine ⟨write .seq, write .ackno, write .tsHi, write .tsLo, ?_, ?_, write .wblen, write .cap, write .cksum, write .pad,
    write .csres, write .status⟩
  · rw [← BitVec.setWidth_eq_extractLsb' (by decide)]; exact write .len
  · rw [← BitVec.setWidth_eq_extractLsb' (by decide)]; exact write .flags

/-- Settles O42: every register at the value of the map, whatever the capacity. -/
theorem resetStateValues : Obligations.ResetStateValues := by
  refine ⟨fun cap => ?_, rfl⟩
  have idle : (State.resetWithCap cap).busy = false := rfl
  exact ⟨rfl, rfl, rfl, rfl, rfl, rfl, rfl, rfl, rfl, rfl, rfl, rfl, rfl, State.statusWord_of_cleared rfl rfl, rfl,
    State.busRead32_offset_of_idle idle .ctrl, State.busRead32_offset_of_idle idle .cap⟩

end Sys2Proof.Machine
end

section
/-! PROOFS, state family. CAP over a step. -/

namespace Sys2Proof.Machine

theorem exec_cap {i : Instr} {s t : State} (h : exec i s = .next t) : t.cap = s.cap := (commandFrames i s t h).1

theorem hostTurn_cap {s t : State} (h : hostTurn s = .next t) : t.cap = s.cap := by
  obtain ⟨u, a, rfl, hu⟩ := hostTurn_effect h
  cases hu
  case writeReg r v _ _ => exact (s.writeReg_frame v r).1
  all_goals simp

theorem codecTurn_cap {s t : State} (h : codecTurn s = .next t) : t.cap = s.cap := by
  rcases codecTurn_cases h with ⟨-, rfl⟩ | ⟨c, i, -, -, he⟩ | ⟨c, r, -, -, rfl⟩
  · rfl
  · exact exec_cap he
  · simp

/-- Settles O49: no turn changes CAP, and its row of the map is read and written like any other. -/
theorem capIsHardwired : Obligations.CapIsHardwired := by
  refine ⟨fun s t h => ?_, fun s v h => State.busWrite32_offset_of_idle h v .cap,
    fun s => State.busRead32_offset (r := .cap) fun _ => rfl⟩
  rcases step_cases h with ⟨-, ht⟩ | ⟨-, ht⟩ | ⟨-, rfl⟩
  · exact (hostTurn_cap ht).trans s.popTurn_cap
  · exact (codecTurn_cap ht).trans s.popTurn_cap
  · simp

end Sys2Proof.Machine
end

section
/-! PROOFS, state family. OVR over a step: set by every dropped write, cleared by STATUS bit 3 and the resets
(10_state.md R41). -/

namespace Sys2Proof.Machine

/-- A line that a busy block drops leaves OVR set. -/
theorem hostTurn_ovr_of_dropped {s t : State} (h : hostTurn s = .next t) (hb : s.busy = true) (hd : s.hostOp.droppedWhileBusy) :
    t.status.ovr = true := by
  rcases hd with ⟨off, v, hop, h0, h8⟩ | ⟨off, b, hop⟩
  · obtain ⟨u, hu, rfl⟩ := hostTurn_of_wr32 hop h
    rcases State.busWrite32_cases hu with ⟨-, -, rfl⟩ | ⟨r, rfl, hr, -⟩ | ⟨hi, -⟩
    · simp
    · rcases Reg.writableWhileBusy_iff.mp (hr hb) with h | h <;> contradiction
    · simp [hb] at hi
  · obtain ⟨u, hu, rfl⟩ := hostTurn_of_wr8 hop h
    rcases State.busWrite8_cases hu with ⟨-, rfl⟩ | ⟨hi, -⟩
    · simp
    · simp [hb] at hi

/-- An accepted register write keeps OVR, but for a soft reset and the W1C write of STATUS. -/
theorem State.writeReg_ovr {s : State} {v : Word} {r : Reg} : (s.writeReg v r).status.ovr = true ↔
    s.status.ovr = true ∧ ¬ (r = .ctrl ∧ v.getLsbD 0 = true) ∧ ¬ (r = .status ∧ v.getLsbD 3 = true) := by
  cases r
  case ctrl =>
    rcases s.writeReg_ctrl v with ⟨hv, hw⟩ | ⟨hv, hw⟩ <;> rw [hw, hv] <;> simp
  all_goals simp [State.writeReg]

/-- The HOST's turn sets OVR only by a dropped write. -/
theorem hostTurn_ovr_set {s t : State} (h : hostTurn s = .next t) (hs : s.status.ovr = false) (ht : t.status.ovr = true) :
    s.busy = true ∧ s.hostOp.droppedWhileBusy := by
  obtain ⟨u, a, rfl, hu⟩ := hostTurn_effect h
  cases hu
  case drop hb hd => exact ⟨hb, hd⟩
  case writeReg => cases hs.symm.trans (State.writeReg_ovr.mp ht).1
  all_goals simp [hs] at ht

/-- The HOST's turn clears OVR only by a soft reset or the W1C write of STATUS. -/
theorem hostTurn_ovr_cleared {s t : State} (h : hostTurn s = .next t) (hs : s.status.ovr = true) (ht : t.status.ovr = false) :
    (∃ v, s.hostOp = .wr32 0x08 v ∧ v.getLsbD 3 = true) ∨ ∃ v, s.hostOp = .wr32 0x00 v ∧ v.getLsbD 0 = true := by
  obtain ⟨u, a, rfl, hu⟩ := hostTurn_effect h
  cases hu
  case writeReg r v hop _ =>
    by_cases hc : r = .ctrl ∧ v.getLsbD 0 = true
    · obtain ⟨rfl, hv⟩ := hc
      exact .inr ⟨v, hop, hv⟩
    · by_cases hw : r = .status ∧ v.getLsbD 3 = true
      · obtain ⟨rfl, hv⟩ := hw
        exact .inl ⟨v, hop, hv⟩
      · cases ht.symm.trans (State.writeReg_ovr.mpr ⟨hs, hc, hw⟩)
  all_goals simp [hs] at ht

/-- The CODEC's turn leaves OVR alone: "Issuing or completing a command does not change it" (10_state.md R41). -/
theorem codecTurn_ovr {s t : State} (h : codecTurn s = .next t) : t.status.ovr = s.status.ovr := by
  rcases codecTurn_cases h with ⟨-, rfl⟩ | ⟨c, i, -, -, he⟩ | ⟨c, r, -, -, rfl⟩
  · rfl
  · obtain ⟨-, -, -, -, hovr, -⟩ := commandFrames i s t he
    exact hovr
  · simp

/-- Settles O51: OVR is the HOST's alone to change, the power-on reset apart. -/
theorem ovrIsSticky : Obligations.OvrIsSticky := by
  intro s t h
  refine ⟨fun hn hb hd => ?_, fun v hn hop hv => ?_, fun hs ht => ?_, fun hs ht => ?_⟩
  · exact hostTurn_ovr_of_dropped (step_of_host hn ▸ h) (by simpa using hb) (by rw [State.popTurn_hostOp]; exact hd)
  · obtain ⟨u, hu, rfl⟩ := hostTurn_of_wr32 (s := s.popTurn) (by simpa using hop) (step_of_host hn ▸ h)
    cases (State.busWrite32_offset (r := .status) (fun _ => rfl) v).symm.trans hu
    simp [State.writeReg, hv]
  · rcases step_cases h with ⟨hn, hturn⟩ | ⟨-, hturn⟩ | ⟨-, rfl⟩
    · obtain ⟨hb, hd⟩ := hostTurn_ovr_set hturn (by simpa using hs) ht
      rw [State.popTurn_hostOp] at hd
      exact ⟨hn, by simpa using hb, hd⟩
    · simp [codecTurn_ovr hturn, hs] at ht
    · simp at ht
  · rcases step_cases h with ⟨hn, hturn⟩ | ⟨-, hturn⟩ | ⟨hn, -⟩
    · rcases hostTurn_ovr_cleared hturn (by simpa using hs) ht with hw | hc
      · exact .inl ⟨hn, by simpa using hw⟩
      · exact .inr (.inl ⟨hn, by simpa using hc⟩)
    · simp [codecTurn_ovr hturn, hs] at ht
    · exact .inr (.inr hn)

end Sys2Proof.Machine
end

section
/-! PROOFS, state family. VALID over a step: set exactly by a VERIFY that finds 0x0000 (10_state.md R40). -/

namespace Sys2Proof.Machine

open Sys2Proof.Claims

/-! The rule's indexed sum is the model's sum over WB (41_checksum.md R150 to R153). -/

/-- The indexed sum, one word taken off the front. -/
theorem ruleSum_add_two (b : Nat → Byte) (n : Nat) :
    ruleSum b (n + 2) = (b 0).toNat * 256 + (b 1).toNat + ruleSum (fun k => b (k + 2)) n := by
  have hlen : (n + 2 + 1) / 2 = (n + 1) / 2 + 1 := by omega
  simp [ruleSum, hlen, List.range_succ_eq_map, Nat.mul_add, Function.comp_def, Nat.lt_iff_add_one_le, Nat.add_assoc]

theorem wordSum_wbBytes (s : State) (a n : Nat) : wordSum (s.wbBytes a n) = ruleSum (fun k => s.wbByte (a + k)) n := by
  induction n using Nat.twoStepInduction generalizing a with
  | zero => rfl
  | one => simp [State.wbBytes, ruleSum]
  | more n ih _ => simp [State.wbBytes, ruleSum_add_two, ih, Nat.add_assoc, Nat.add_comm 2]

theorem State.csum16_eq_ruleChecksum (s : State) (n : Nat) : s.csum16 0 n = ruleChecksum s n := by
  have hsum : wordSum (s.wbBytes 0 n) = ruleSum s.wbByte n := by simpa using wordSum_wbBytes s 0 n
  rw [State.csum16, checksum, fold, ruleChecksum, hsum]
  split <;> rfl

theorem ruleChecksum_popTurn (s : State) (n : Nat) : ruleChecksum s.popTurn n = ruleChecksum s n := by
  rw [ruleChecksum, ruleChecksum, funext s.popTurn_wbByte]

/-- A completion leaves VALID = 1 exactly when it is that of a VERIFY within WB_CAP whose result is 0x0000. -/
theorem exec_valid {i : Instr} {s t : State} (h : exec i s = .next t) :
    t.status.valid = true ↔ i = .verify ∧ s.wblen.toNat ≤ s.cap.toNat ∧ ruleChecksum s s.wblen.toNat = 0 := by
  by_cases hi : i = .verify
  · subst hi
    rcases execVerify_cases h with ⟨hlt, rfl⟩ | ⟨hle, rfl⟩
    · have hlt : ¬ s.wblen.toNat ≤ s.cap.toNat := Nat.not_le_of_lt hlt
      simp [hlt]
    · have hle : s.wblen.toNat ≤ s.cap.toNat := hle
      simp [hle, State.csum16_eq_ruleChecksum]
  · rcases exec_cases h with ⟨v, hv, rfl⟩ | ⟨e, -, -, rfl⟩
    · simpa [hi] using hv
    · simp [hi]

/-- The CODEC's turn on a command word in progress. -/
theorem codecTurn_valid {s t : State} {c : Word} (h : codecTurn s = .next t) (hp : s.phase = .busy c) :
    t.status.valid = true ↔ c = 3 ∧ s.wblen.toNat ≤ s.cap.toNat ∧ ruleChecksum s s.wblen.toNat = 0 := by
  rcases codecTurn_cases h with ⟨hidle, -⟩ | ⟨c', i, hp', hi, he⟩ | ⟨c', r, hp', hr, rfl⟩
  · simp [hp] at hidle
  · cases hp.symm.trans hp'
    have hword : c = 3 ↔ i = .verify := by
      rw [eq_encode_of_decode hi]
      exact ⟨encode_injective (j := .verify), congrArg encode⟩
    rw [exec_valid he, hword]
  · cases hp.symm.trans hp'
    exact ⟨nofun, fun h => absurd h.1 (ne_encode_of_decode_error hr .verify)⟩

/-! The HOST's turn never sets VALID, and an issue clears it. -/

theorem State.valid_of_writeReg {s : State} {v : Word} {r : Reg} (h : (s.writeReg v r).status.valid = true) :
    s.status.valid = true := by
  cases r
  case ctrl =>
    rcases s.writeReg_ctrl v with ⟨-, hw⟩ | ⟨-, hw⟩ <;> rw [hw] at h
    · simp at h
    · exact h
  case cmd => cases h
  all_goals exact h

theorem hostTurn_valid {s t : State} (h : hostTurn s = .next t) (ht : t.status.valid = true) : s.status.valid = true := by
  obtain ⟨u, a, rfl, hu⟩ := hostTurn_effect h
  cases hu
  case writeReg => exact State.valid_of_writeReg ht
  all_goals simpa using ht

/-- A register write that starts a command is the issue of one. -/
theorem State.writeReg_status_of_start {s : State} {v c : Word} {r : Reg} (hs : s.phase = .idle)
    (h : (s.writeReg v r).phase = .busy c) : (s.writeReg v r).status = s.status.issued := by
  cases r
  case ctrl => rcases s.writeReg_ctrl v with ⟨-, hw⟩ | ⟨-, hw⟩ <;> simp [hw, hs] at h
  case cmd => rfl
  all_goals simp [State.writeReg, hs] at h

/-- A HOST's turn that starts a command is the issue of one. -/
theorem hostTurn_status_of_start {s t : State} {c : Word} (h : hostTurn s = .next t) (hs : s.phase = .idle)
    (ht : t.phase = .busy c) : t.status = s.status.issued := by
  obtain ⟨u, a, rfl, hu⟩ := hostTurn_effect h
  cases hu
  case writeReg => exact State.writeReg_status_of_start hs ht
  all_goals simp [hs] at ht

/-- The CODEC's turn never starts a command. -/
theorem codecTurn_phase {s t : State} (h : codecTurn s = .next t) : t.phase = .idle := by
  rcases codecTurn_cases h with ⟨hp, rfl⟩ | ⟨c, i, -, -, he⟩ | ⟨c, r, -, -, rfl⟩
  · exact hp
  · rcases exec_cases he with ⟨v, -, rfl⟩ | ⟨e, -, -, rfl⟩ <;> simp
  · simp

/-- A host write of CTRL with bit 0 = 1 is the soft reset, at any time (70_reset_and_hazards.md R212). -/
theorem hostTurn_of_softReset {s t : State} {v : Word} (hop : s.hostOp = .wr32 0x00 v) (hv : v.getLsbD 0 = true)
    (h : hostTurn s = .next t) : t = s.softReset.hostNext := by
  obtain ⟨u, hu, rfl⟩ := hostTurn_of_wr32 hop h
  cases (State.busWrite32_offset (r := .ctrl) (fun _ => rfl) v).symm.trans hu
  simp [State.writeReg, hv]

/-- Settles O52: a completion decides VALID by its word and its checksum; the HOST's turn can only clear it. -/
theorem validOnlyByVerify : Obligations.ValidOnlyByVerify := by
  intro s t h
  have completed {c : Word} (hn : s.nextTurn = .codec) (hp : s.phase = .busy c) :
      t.status.valid = true ↔ c = 3 ∧ s.wblen.toNat ≤ s.cap.toNat ∧ ruleChecksum s s.wblen.toNat = 0 := by
    simpa [ruleChecksum_popTurn] using codecTurn_valid (s := s.popTurn) (step_of_codec hn ▸ h) (by simpa using hp)
  refine ⟨fun ht => ?_, fun hn hp hle hsum => (completed hn hp).mpr ⟨rfl, hle, hsum⟩, fun c hn hp hc => ?_,
    fun c hs hp => ?_, ?_⟩
  · rcases step_cases h with ⟨hn, hturn⟩ | ⟨hn, hturn⟩ | ⟨-, rfl⟩
    · exact .inl ⟨by simpa using hostTurn_valid hturn ht, .inl hn⟩
    · cases hp : s.phase with
      | idle =>
        rw [codecTurn, State.popTurn_phase, hp] at hturn
        cases hturn
        exact .inl ⟨by simpa using ht, .inr ⟨hn, rfl⟩⟩
      | busy c =>
        obtain ⟨rfl, hle, hsum⟩ := (completed hn hp).mp ht
        exact .inr ⟨hn, rfl, hle, hsum⟩
    · simp at ht
  · exact Bool.eq_false_iff.mpr fun ht => hc ((completed hn hp).mp ht).1
  · rcases step_cases h with ⟨-, hturn⟩ | ⟨-, hturn⟩ | ⟨-, rfl⟩
    · simp [hostTurn_status_of_start hturn (by simpa using hs) hp]
    · simp [codecTurn_phase hturn] at hp
    · simp at hp
  · rintro (⟨hn, v, hop, hv⟩ | hn)
    · simp [hostTurn_of_softReset (s := s.popTurn) (by simpa using hop) hv (step_of_host hn ▸ h)]
    · cases (step_of_powerOn hn).symm.trans h
      simp

end Sys2Proof.Machine
end

section
/-! PROOFS, memory family. Which WB bytes a step can change, and by which line or command (20_memory.md R80). -/

namespace Sys2Proof.Machine

theorem isEncodeWord_iff {c : Word} : isEncodeWord c = true ↔ c = encode .encode := by
  constructor
  · intro h
    unfold isEncodeWord at h
    split at h
    · exact eq_encode_of_decode ‹_›
    · cases h
  · rintro rfl
    rfl

theorem State.encodeInProgress_iff {s : State} : s.encodeInProgress = true ↔ s.phase = .busy (encode .encode) := by
  unfold State.encodeInProgress
  cases s.phase <;> simp [isEncodeWord_iff]

/-- Of the accepted register writes only the soft reset that abandons an ENCODE changes WB, and there only the header
(70_reset_and_hazards.md R213). -/
theorem State.writeReg_wbByte_changed {s : State} {v : Word} {r : Reg} {i : Nat}
    (h : (s.writeReg v r).wbByte i ≠ s.wbByte i) :
    r = .ctrl ∧ v.getLsbD 0 = true ∧ s.phase = .busy (encode .encode) ∧ i < 24 := by
  cases r
  case ctrl =>
    rcases s.writeReg_ctrl v with ⟨hv, hw⟩ | ⟨-, hw⟩ <;> rw [hw] at h
    · rw [State.wbByte_softReset] at h
      obtain ⟨he, hi⟩ : s.encodeInProgress = true ∧ i < 24 := by
        by_contra hn
        exact h (if_neg hn)
      exact ⟨rfl, hv, State.encodeInProgress_iff.mp he, hi⟩
    · exact absurd rfl h
  all_goals exact absurd (State.wbByte_congr rfl rfl i) h

/-- A number written to WB changes only the bytes it covers. -/
theorem State.memWrite_wbByte_changed {s : State} {a n v i : Nat} (h : (s.memWrite a n v).wbByte i ≠ s.wbByte i) :
    a ≤ i ∧ i < a + n := by
  by_contra hi
  exact h (s.wbByte_memWrite_of_outside hi)

/-- A byte written to WB reads back (20_memory.md R63). -/
theorem State.wbByte_memWrite_one (s : State) (i : Nat) (b : Byte) : (s.memWrite i 1 b.toNat).wbByte i = b := by
  rw [State.wbByte_memWrite, if_pos (by omega)]
  simp

/-- A line of the host that changes WB[i]: a write that covers it while idle, or the soft reset that abandons an ENCODE. -/
theorem hostTurn_wbByte_changed {s t : State} {i : Nat} (h : hostTurn s = .next t) (hne : t.wbByte i ≠ s.wbByte i) :
    (s.busy = false ∧
      ((∃ off b, s.hostOp = .wr8 off b ∧ off.toNat = 0x80000000 + i ∧ t.wbByte i = b) ∨
       ∃ off v, s.hostOp = .wr32 off v ∧ off.toNat % 4 = 0 ∧ off.toNat ≤ 0x80000000 + i ∧
        0x80000000 + i < off.toNat + 4)) ∨
    ((∃ v, s.hostOp = .wr32 0x00 v ∧ v.getLsbD 0 = true) ∧ s.phase = .busy (encode .encode) ∧ i < 24) := by
  obtain ⟨u, a, rfl, hu⟩ := hostTurn_cases h
  change u.wbByte i ≠ s.wbByte i at hne
  rcases hu with rfl | ⟨-, rfl⟩ | ⟨off, v, hop, hu⟩ | ⟨off, b, hop, hu⟩
  · exact absurd rfl hne
  · exact absurd (s.wbByte_draw i) hne
  · rcases State.busWrite32_cases hu with ⟨-, -, rfl⟩ | ⟨r, rfl, -, rfl⟩ | ⟨hb, k, hoff, hk, -, rfl⟩
    · exact absurd (s.wbByte_dropWrite i) hne
    · obtain ⟨rfl, hv, hp, hi⟩ := State.writeReg_wbByte_changed hne
      exact .inr ⟨⟨v, hop, hv⟩, hp, hi⟩
    · obtain ⟨hlo, hhi⟩ := State.memWrite_wbByte_changed hne
      exact .inl ⟨hb, .inr ⟨off, v, hop, by omega, by omega, by omega⟩⟩
  · rcases State.busWrite8_cases hu with ⟨-, rfl⟩ | ⟨hb, k, hoff, -, rfl⟩
    · exact absurd (s.wbByte_dropWrite i) hne
    · obtain rfl : i = k := by
        have := State.memWrite_wbByte_changed hne
        omega
      exact .inl ⟨hb, .inl ⟨off, b, hop, hoff, s.wbByte_memWrite_one i b⟩⟩

/-- A completion that changes WB[i] is that of an ENCODE without error, in the header (20_memory.md R79). -/
theorem exec_wbByte_changed {c : Instr} {s t : State} {i : Nat} (h : exec c s = .next t) (hne : t.wbByte i ≠ s.wbByte i) :
    c = .encode ∧ t.status.err = 0 ∧ i < 24 := by
  obtain ⟨-, -, -, -, -, payload, others, -⟩ := commandFrames c s t h
  have hc : c = .encode := by
    by_contra hc
    exact hne ((others hc).1 i)
  have hi : i < 24 := by
    by_contra hi
    exact hne (payload i (by omega))
  rcases exec_cases h with ⟨v, -, rfl⟩ | ⟨e, -, -, rfl⟩
  · exact ⟨hc, rfl, hi⟩
  · exact absurd (s.wbByte_raiseErr e i) hne

/-- A turn of the CODEC that changes WB[i]. -/
theorem codecTurn_wbByte_changed {s t : State} {i : Nat} (h : codecTurn s = .next t) (hne : t.wbByte i ≠ s.wbByte i) :
    s.phase = .busy (encode .encode) ∧ t.status.err = 0 ∧ i < 24 := by
  rcases codecTurn_cases h with ⟨-, rfl⟩ | ⟨c, k, hp, hk, he⟩ | ⟨c, r, -, -, rfl⟩
  · exact absurd rfl hne
  · obtain ⟨rfl, herr, hi⟩ := exec_wbByte_changed he hne
    exact ⟨eq_encode_of_decode hk ▸ hp, herr, hi⟩
  · exact absurd (s.wbByte_raiseErr .illegalCmd i) hne

/-- Settles O50: each turn says which of its lines or commands changed the byte. -/
theorem wbChangesOnlyByRule : Obligations.WbChangesOnlyByRule := by
  intro s t i h hne
  rw [← s.popTurn_wbByte] at hne
  rcases step_cases h with ⟨hn, hturn⟩ | ⟨hn, hturn⟩ | ⟨hn, -⟩
  · have hline := hostTurn_wbByte_changed hturn hne
    rw [State.popTurn_busy, State.popTurn_hostOp, State.popTurn_phase] at hline
    rcases hline with ⟨hb, hline⟩ | ⟨hreset, hp, hi⟩
    · exact .inl ⟨hn, hb, hline⟩
    · exact .inr (.inr (.inl ⟨⟨hn, hreset⟩, hp, hi⟩))
  · obtain ⟨hp, herr, hi⟩ := codecTurn_wbByte_changed hturn hne
    exact .inr (.inl ⟨hn, hp, herr, hi⟩)
  · exact .inr (.inr (.inr hn))

end Sys2Proof.Machine
end

section
/-! PROOFS, memory family. Which accesses the bus accepts (20_memory.md R61 to R63), and the bytes of WB as big-endian words
(R66). -/

namespace Sys2Proof.Machine

open Sys2Proof.Claims

/-! ## Accepted accesses -/

/-- The register offsets are the multiples of 4 below 0x38 (20_memory.md R61, R62). -/
theorem Reg.exists_offset_iff {off : Word} : (∃ r, off = Reg.offset r) ↔ off.toNat < 0x38 ∧ off.toNat % 4 = 0 := by
  constructor
  · rintro ⟨r, rfl⟩
    cases r <;> decide
  · rintro ⟨hlt, h4⟩
    have map : ∀ k < 14, ∃ r ∈ Reg.all, Reg.offset r = BitVec.ofNat 32 (4 * k) := by decide
    obtain ⟨r, -, hr⟩ := map (off.toNat / 4) (by omega)
    refine ⟨r, hr ▸ BitVec.eq_of_toNat_eq ?_⟩
    rw [BitVec.toNat_ofNat]
    omega

theorem target32_isSome_iff {cap : Nat} {off : Word} : (target32 cap off).isSome = true ↔
    (off.toNat < 0x38 ∧ off.toNat % 4 = 0) ∨
    (0x80000000 ≤ off.toNat ∧ off.toNat % 4 = 0 ∧ off.toNat + 3 < 0x80000000 + cap) := by
  constructor
  · intro h
    obtain ⟨r | i, ht⟩ := Option.isSome_iff_exists.mp h
    · exact .inl (Reg.exists_offset_iff.mp ⟨r, target32_reg ht⟩)
    · have := target32_wb ht
      exact .inr (by omega)
  · rintro (h | ⟨hlo, h4, hhi⟩)
    · obtain ⟨r, rfl⟩ := Reg.exists_offset_iff.mpr h
      simp
    · simp [target32_of_window hlo (cap := cap) (by omega) (by omega)]

theorem target8_isSome_iff {cap : Nat} {off : Word} :
    (target8 cap off).isSome = true ↔ 0x80000000 ≤ off.toNat ∧ off.toNat < 0x80000000 + cap := by
  constructor
  · intro h
    obtain ⟨i, ht⟩ := Option.isSome_iff_exists.mp h
    have := target8_some ht
    omega
  · rintro ⟨hlo, hhi⟩
    simp [target8_of_window hlo (cap := cap) (by omega)]

/-! Whether an access is accepted is a matter of its target alone, not of the block's phase. -/

theorem State.busRead32_isSome (s : State) (off : Word) : (s.busRead32 off).isSome = (target32 s.wbCap off).isSome := by
  unfold State.busRead32
  rcases target32 s.wbCap off with _ | r | i
  · rfl
  all_goals dsimp only; split <;> rfl

theorem State.busWrite32_isSome (s : State) (off v : Word) :
    (s.busWrite32 off v).isSome = (target32 s.wbCap off).isSome := by
  unfold State.busWrite32
  rcases target32 s.wbCap off with _ | r | i
  · rfl
  all_goals dsimp only; split <;> rfl

theorem State.busRead8_isSome (s : State) (off : Word) : (s.busRead8 off).isSome = (target8 s.wbCap off).isSome := by
  unfold State.busRead8
  rcases target8 s.wbCap off with _ | i
  · rfl
  · dsimp only; split <;> rfl

theorem State.busWrite8_isSome (s : State) (off : Word) (v : Byte) :
    (s.busWrite8 off v).isSome = (target8 s.wbCap off).isSome := by
  unfold State.busWrite8
  rcases target8 s.wbCap off with _ | i
  · rfl
  · dsimp only; split <;> rfl

/-- Settles O35: an access is accepted exactly when it has a target. -/
theorem busErrorsExactly : Obligations.BusErrorsExactly := by
  intro s off
  rw [State.busRead32_isSome, State.busRead8_isSome]
  exact ⟨target32_isSome_iff, s.busWrite32_isSome off, target8_isSome_iff, s.busWrite8_isSome off⟩

/-! ## Big-endian bytes of a word -/

/-- A byte of a number, taken from the number as a word. -/
theorem ofNat_div_eq_extractLsb' {n : Nat} (v : BitVec n) (k : Nat) :
    BitVec.ofNat 8 (v.toNat / 256 ^ k) = v.extractLsb' (8 * k) 8 := by
  rw [BitVec.extractLsb', Nat.shiftRight_eq_div_pow, Nat.pow_mul]

theorem toNat_append_byte {n : Nat} (x : BitVec n) (b : Byte) : (x ++ b).toNat = x.toNat * 256 + b.toNat := by
  rw [BitVec.toNat_append, ← Nat.shiftLeft_add_eq_or_of_lt b.isLt, Nat.shiftLeft_eq]

theorem word4_toNat (s : State) (a : Nat) : (word4 s a).toNat = s.memRead a 4 := by
  simp only [word4, toNat_append_byte, State.memRead, State.wbBytes, beNat, List.length_cons, List.length_nil,
    Nat.add_assoc a, Nat.reduceAdd]
  omega

theorem word2_toNat (s : State) (a : Nat) : (word2 s a).toNat = s.memRead a 2 := by
  simp only [word2, toNat_append_byte, State.memRead, State.wbBytes, beNat, List.length_cons, List.length_nil]
  omega

/-- `MemRead(a, 4)` as a word is the four bytes, the lowest offset on top. -/
theorem State.ofNat_memRead_four (s : State) (a : Nat) : BitVec.ofNat 32 (s.memRead a 4) = word4 s a := by
  rw [← word4_toNat, BitVec.ofNat_toNat, BitVec.setWidth_eq]

/-- Four bytes that are those of a word spell it. -/
theorem word4_eq_of_wbBytes {s : State} {a : Nat} {w : Word} (h : s.wbBytes a 4 = beBytes 4 w.toNat) : word4 s a = w := by
  apply BitVec.eq_of_toNat_eq
  rw [word4_toNat, State.memRead, h, beNat_beBytes]
  exact Nat.mod_eq_of_lt w.isLt

theorem word2_eq_of_wbBytes {s : State} {a : Nat} {w : Half} (h : s.wbBytes a 2 = beBytes 2 w.toNat) : word2 s a = w := by
  apply BitVec.eq_of_toNat_eq
  rw [word2_toNat, State.memRead, h, beNat_beBytes]
  exact Nat.mod_eq_of_lt w.isLt

/-- The bytes of a word written to WB, each in its lane (20_memory.md R63). -/
theorem State.wbByte_memWrite_word (s : State) (i k : Nat) (v : Word) : (s.memWrite i 4 v.toNat).wbByte k =
    if k = i then v.extractLsb' 24 8 else if k = i + 1 then v.extractLsb' 16 8
    else if k = i + 2 then v.extractLsb' 8 8 else if k = i + 3 then v.extractLsb' 0 8 else s.wbByte k := by
  rw [State.wbByte_memWrite, ofNat_div_eq_extractLsb']
  by_cases h : i ≤ k ∧ k < i + 4
  · obtain ⟨j, rfl⟩ := Nat.exists_eq_add_of_le h.1
    have hj : j < 4 := by omega
    interval_cases j <;> simp
  · rw [if_neg h, if_neg (by omega), if_neg (by omega), if_neg (by omega), if_neg (by omega)]

theorem State.wbByte_memWrite_byte (s : State) (i k : Nat) (b : Byte) :
    (s.memWrite i 1 b.toNat).wbByte k = if k = i then b else s.wbByte k := by
  by_cases h : k = i
  · subst h
    rw [if_pos rfl, State.wbByte_memWrite_one]
  · rw [if_neg h, State.wbByte_memWrite_of_outside _ (by omega)]

/-! ## The window -/

theorem toNat_wbOffset {i : Nat} (h : i < 2 ^ 31) : (BitVec.ofNat 32 (0x80000000 + i)).toNat = 0x80000000 + i := by
  rw [BitVec.toNat_ofNat]
  omega

theorem target32_wbOffset {cap i : Nat} (h : i < 2 ^ 31) (h4 : i % 4 = 0) (hc : i + 3 < cap) :
    target32 cap (BitVec.ofNat 32 (0x80000000 + i)) = some (.wb i) := by
  have hoff := toNat_wbOffset h
  rw [target32_of_window (by omega) (by omega) (by omega), hoff, Nat.add_sub_cancel_left]

theorem target8_wbOffset {cap i : Nat} (h : i < 2 ^ 31) (hc : i < cap) :
    target8 cap (BitVec.ofNat 32 (0x80000000 + i)) = some i := by
  have hoff := toNat_wbOffset h
  rw [target8_of_window (by omega) (by omega), hoff, Nat.add_sub_cancel_left]

/-! Idle accesses to the window. -/

theorem State.busRead32_window {s : State} {i : Nat} (idle : s.busy = false) (hi : i < 2 ^ 31) (h4 : i % 4 = 0)
    (hc : i + 3 < s.wbCap) : s.busRead32 (BitVec.ofNat 32 (0x80000000 + i)) = some (word4 s i, s) := by
  rw [State.busRead32, target32_wbOffset hi h4 hc]
  simp [idle, State.ofNat_memRead_four]

theorem State.busWrite32_window {s : State} {i : Nat} (idle : s.busy = false) (hi : i < 2 ^ 31) (h4 : i % 4 = 0)
    (hc : i + 3 < s.wbCap) (v : Word) :
    s.busWrite32 (BitVec.ofNat 32 (0x80000000 + i)) v = some (s.memWrite i 4 v.toNat) := by
  rw [State.busWrite32, target32_wbOffset hi h4 hc]
  simp [idle]

theorem State.busRead8_window {s : State} {i : Nat} (idle : s.busy = false) (hi : i < 2 ^ 31) (hc : i < s.wbCap) :
    s.busRead8 (BitVec.ofNat 32 (0x80000000 + i)) = some (s.wbByte i, s) := by
  rw [State.busRead8, target8_wbOffset hi hc]
  simp [idle]

theorem State.busWrite8_window {s : State} {i : Nat} (idle : s.busy = false) (hi : i < 2 ^ 31) (hc : i < s.wbCap)
    (b : Byte) : s.busWrite8 (BitVec.ofNat 32 (0x80000000 + i)) b = some (s.memWrite i 1 b.toNat) := by
  rw [State.busWrite8, target8_wbOffset hi hc]
  simp [idle]

/-- Settles O36: the bus errors are those of O35, and an idle access reads or writes its target's bytes. -/
theorem windowAccessesBigEndian : Obligations.WindowAccessesBigEndian := by
  refine ⟨fun s i v b hi => ?_, fun s i v b idle => ⟨fun hc hi => ?_, fun h4 hc hi => ?_⟩⟩
  · obtain ⟨read32, write32, read8, write8⟩ := busErrorsExactly s (BitVec.ofNat 32 (0x80000000 + i))
    rw [toNat_wbOffset hi] at read32 read8
    simp only [← Option.not_isSome_iff_eq_none, write32, write8, read32, read8]
    omega
  · exact ⟨State.busRead8_window idle hi hc, _, State.busWrite8_window idle hi hc b,
      fun k => s.wbByte_memWrite_byte i k b⟩
  · exact ⟨State.busRead32_window idle (by omega) h4 hc, _, State.busWrite32_window idle (by omega) h4 hc v,
      fun k => s.wbByte_memWrite_word i k v⟩

end Sys2Proof.Machine
end

section
/-! PROOFS, memory family. The host's accesses while busy (20_memory.md R65, R72, R81). -/

namespace Sys2Proof.Machine

/-- The registers that read their value also while busy are those at 0x00 to 0x0C (20_memory.md R65). -/
theorem Reg.readableWhileBusy_iff {r : Reg} : Reg.readableWhileBusy r = true ↔
    Reg.offset r = 0x00 ∨ Reg.offset r = 0x04 ∨ Reg.offset r = 0x08 ∨ Reg.offset r = 0x0C := by
  cases r <;> decide

/-- A 32-bit read while busy is that of a register readable then, or a draw. -/
theorem State.busRead32_of_busy {s u : State} {off v : Word} (hb : s.busy = true) (h : s.busRead32 off = some (v, u)) :
    (∃ r, off = Reg.offset r ∧ Reg.readableWhileBusy r = true) ∨ v = Config.freeWord s.draws ∧ u = s.draw := by
  unfold State.busRead32 at h
  rcases ht : target32 s.wbCap off with _ | r | i <;> simp only [ht, hb, Bool.true_and, if_true] at h
  · cases h
  · split at h
    · cases h
      exact .inr ⟨rfl, rfl⟩
    · rename_i hr
      exact .inl ⟨r, target32_reg ht, by simpa using hr⟩
  · cases h
    exact .inr ⟨rfl, rfl⟩

/-- An 8-bit read while busy is a draw of the byte at its offset. -/
theorem State.busRead8_of_busy {s u : State} {off : Word} {v : Byte} (hb : s.busy = true)
    (h : s.busRead8 off = some (v, u)) : v = Config.freeByte s.draws (off.toNat - 0x80000000) ∧ u = s.draw := by
  unfold State.busRead8 at h
  rcases ht : target8 s.wbCap off with _ | i <;> simp only [ht, hb, if_true] at h
  · cases h
  · cases h
    rw [(target8_some ht).1, Nat.add_sub_cancel_left]
    exact ⟨rfl, rfl⟩

/-- Settles O37: four registers are readable while busy, and every other read is a draw. -/
theorem busyReadsAreDraws : Obligations.BusyReadsAreDraws := by
  intro s hb
  have read {r : Reg} (hr : Reg.readableWhileBusy r = true) := State.busRead32_offset (s := s) fun _ => hr
  refine ⟨read (r := .ctrl) rfl, read (r := .cmd) rfl, read (r := .status) rfl, read (r := .cap) rfl,
    fun off v u h0 h4 h8 hC h => ?_, fun off v u h => State.busRead8_of_busy hb h⟩
  rcases State.busRead32_of_busy hb h with ⟨r, rfl, hr⟩ | hdraw
  · rcases Reg.readableWhileBusy_iff.mp hr with h | h | h | h <;> contradiction
  · exact hdraw

/-- Settles O38: a write while busy is dropped, unless it is one of the two registers that act. -/
theorem busyWritesDropped : Obligations.BusyWritesDropped := by
  intro s hb
  refine ⟨fun off v u h0 h8 h => ?_, fun off b u h => ?_, State.busWrite32_offset (r := .status) fun _ => rfl,
    fun v => ?_⟩
  · rcases State.busWrite32_cases h with ⟨-, -, hu⟩ | ⟨r, rfl, hr, -⟩ | ⟨idle, -⟩
    · exact hu
    · rcases Reg.writableWhileBusy_iff.mp (hr hb) with h | h <;> contradiction
    · simp [hb] at idle
  · rcases State.busWrite8_cases h with ⟨-, hu⟩ | ⟨idle, -⟩
    · exact hu
    · simp [hb] at idle
  · have write := State.busWrite32_offset (s := s) (r := .ctrl) (fun _ => rfl) v
    rcases s.writeReg_ctrl v with ⟨hv, hw⟩ | ⟨hv, hw⟩ <;> rw [hw] at write
    · exact ⟨fun hn => (by cases hv.symm.trans hn), fun _ => ⟨_, write, s.softReset_phase,
        State.statusWord_of_cleared s.softReset_status s.softReset_phase⟩⟩
    · exact ⟨fun _ => write, fun hn => (by cases hv.symm.trans hn)⟩

/-- While busy, the HOST's turn other than a soft reset changes only OVR, the model's draw counter and the host. -/
theorem hostTurn_frame_of_busy {s t : State} (h : hostTurn s = .next t) (hb : s.busy = true)
    (hreset : ¬ ∃ v, s.hostOp = .wr32 0x00 v ∧ v.getLsbD 0 = true) :
    ∃ a o d, t = { s with host := a, status := { s.status with ovr := o }, draws := d } := by
  obtain ⟨u, a, rfl, hu⟩ := hostTurn_effect h
  cases hu with
  | unchanged => exact ⟨a, _, _, rfl⟩
  | draw => exact ⟨a, _, _, rfl⟩
  | drop => exact ⟨a, _, _, rfl⟩
  | writeReg r v line accepted =>
    have hacts := accepted hb
    cases r
    case ctrl =>
      rcases s.writeReg_ctrl v with ⟨hv, -⟩ | ⟨-, hw⟩
      · exact absurd ⟨v, line, hv⟩ hreset
      · exact ⟨a, _, _, by rw [hw]⟩
    case status => exact ⟨a, _, _, rfl⟩
    all_goals cases hacts
  | writeWb _ _ _ idle => simp [hb] at idle

/-- Settles O53: OVR, the draw counter and the host are none of a command's inputs. -/
theorem runningCommandInputsFixed : Obligations.RunningCommandInputsFixed := by
  intro s t c hp hn h hreset
  have hb : s.popTurn.busy = true := by simpa using State.busy_of_busy hp
  obtain ⟨a, o, d, rfl⟩ := hostTurn_frame_of_busy (step_of_host hn ▸ h) hb
    (by simpa [Claims.softResetNext, hn] using hreset)
  exact ⟨hp, rfl, rfl, rfl, rfl, rfl, rfl, rfl, rfl, rfl, rfl, rfl, rfl, rfl, rfl, rfl, fun _ => rfl⟩

end Sys2Proof.Machine
end

section
/-! PROOFS, memory family. The faults of a step are the accesses the bus does not accept (20_memory.md R60, R64). -/

namespace Sys2Proof

/-- The access of a line that the bus can refuse; POLL's read of STATUS never is. -/
def HostOp.access? : HostOp → Option Access
  | .wr32 off v => some (.write32 off v)
  | .wr8 off v => some (.write8 off v)
  | .rd32 off _ => some (.read32 off)
  | .rd8 off _ => some (.read8 off)
  | .other z off => some (.other z off)
  | .poll _ | .beq .. | .bne .. | .label _ | .halt => none

namespace Machine

/-- The bus does not accept the access: it has no target, or a size the bus does not have. -/
def State.rejects (s : State) : Access → Prop
  | .read8 off => s.busRead8 off = none
  | .read32 off => s.busRead32 off = none
  | .write8 off v => s.busWrite8 off v = none
  | .write32 off v => s.busWrite32 off v = none
  | .other .. => True

theorem State.popTurn_rejects {s : State} {a : Access} : s.popTurn.rejects a ↔ s.rejects a := by
  cases a with
  | read8 off => exact s.popTurn_busRead8_eq_none off
  | read32 off => exact s.popTurn_busRead32_eq_none off
  | write8 off v => exact s.popTurn_busWrite8_eq_none off v
  | write32 off v => exact s.popTurn_busWrite32_eq_none off v
  | other => exact Iff.rfl

theorem hostWrote_fault_iff {a : Access} {r : Option State} {f : Fault} :
    hostWrote a r = .fault f ↔ f = .busError a ∧ r = none := by
  cases r <;> simp [hostWrote, eq_comm]

theorem hostRead_fault_iff {a : Access} {n : Nat} {r : Option (Word × State)} {f : Fault} :
    hostRead a n r = .fault f ↔ f = .busError a ∧ r = none := by
  cases r <;> simp [hostRead, eq_comm]

theorem State.hostGoto_ne_fault (s : State) (l : Nat) (f : Fault) : s.hostGoto l ≠ .fault f := by
  unfold State.hostGoto
  split <;> nofun

theorem State.hostBranch_ne_fault (s : State) (c : Cond) (want : Bool) (l : Nat) (f : Fault) :
    s.hostBranch c want l ≠ .fault f := by
  unfold State.hostBranch
  split
  · nofun
  · split
    · exact s.hostGoto_ne_fault l f
    · nofun

/-- A POLL reads STATUS, which the bus always accepts (20_memory.md R62, R65). -/
theorem hostLine_poll_ne_fault (s : State) (n : Nat) (f : Fault) : hostLine (.poll n) s ≠ .fault f := by
  rw [hostLine, State.busRead32_offset (r := .status) fun _ => rfl, hostPolled]
  split <;> nofun

/-- A fault that names a refused access is that of the access named. -/
theorem busError_eq_and_rejects_iff {s : State} {a b : Access} :
    Fault.busError a = .busError b ∧ s.rejects b ↔ some b = some a ∧ s.rejects a := by
  rw [Fault.busError.injEq, Option.some.injEq, eq_comm]
  exact and_congr_right fun h => h ▸ Iff.rfl

/-- A line faults exactly when it makes an access that the bus does not accept, and the fault names that access. -/
theorem hostLine_fault_iff {op : HostOp} {s : State} {a : Access} :
    hostLine op s = .fault (.busError a) ↔ op.access? = some a ∧ s.rejects a := by
  cases op with
  | wr32 off v => exact hostWrote_fault_iff.trans (busError_eq_and_rejects_iff (b := .write32 off v))
  | wr8 off v => exact hostWrote_fault_iff.trans (busError_eq_and_rejects_iff (b := .write8 off v))
  | rd32 off n => exact hostRead_fault_iff.trans (busError_eq_and_rejects_iff (b := .read32 off))
  | rd8 off n =>
    refine Iff.trans ?_ (busError_eq_and_rejects_iff (b := .read8 off))
    exact hostRead_fault_iff.trans (and_congr_right fun _ => Option.map_eq_none_iff)
  | other z off =>
    refine Iff.trans ?_ (busError_eq_and_rejects_iff (b := .other z off))
    simp [hostLine, State.rejects, eq_comm]
  | poll n => exact iff_of_false (hostLine_poll_ne_fault s n _) nofun
  | beq c l => exact iff_of_false (s.hostBranch_ne_fault c true l _) nofun
  | bne c l => exact iff_of_false (s.hostBranch_ne_fault c false l _) nofun
  | label l => exact iff_of_false nofun nofun
  | halt => exact iff_of_false nofun nofun

/-- Every command completes, with or without error (70_reset_and_hazards.md R218). -/
theorem exec_completes (i : Instr) (s : State) : ∃ t, exec i s = .next t := by
  cases i <;> dsimp only [exec, execEncode, execDecode, execVerify, execCsum]
  all_goals
    repeat' split
    all_goals exact ⟨_, rfl⟩

theorem codecTurn_completes (s : State) : ∃ t, codecTurn s = .next t := by
  unfold codecTurn
  split
  · exact ⟨_, rfl⟩
  · split
    · exact exec_completes _ s
    · exact ⟨_, rfl⟩

/-- A step faults exactly when it is a line of the host whose access the bus does not accept. -/
theorem step_fault_iff {s : State} {a : Access} : step s = .fault (.busError a) ↔
    s.nextTurn = .host ∧ s.hostOp.access? = some a ∧ s.rejects a := by
  cases hn : s.nextTurn with
  | host =>
    rw [step_of_host hn, hostTurn, hostLine_fault_iff, State.popTurn_hostOp, State.popTurn_rejects]
    exact (and_iff_right rfl).symm
  | codec =>
    obtain ⟨t, ht⟩ := codecTurn_completes s.popTurn
    rw [step_of_codec hn, ht]
    exact iff_of_false nofun nofun
  | powerOn => exact iff_of_false (step_of_powerOn hn ▸ nofun) nofun

/-- Settles O43: the faults of a step, line by line and access by access. -/
theorem busErrorIsHostFault : Obligations.BusErrorIsHostFault := by
  have faults {s : State} {op : HostOp} {a : Access} (hn : s.nextTurn = .host) (hop : s.hostOp = op)
      (ha : op.access? = some a) (hr : s.rejects a) : step s = .fault (.busError a) :=
    step_fault_iff.mpr ⟨hn, hop ▸ ha, hr⟩
  refine ⟨fun s off v hn hop hr => faults hn hop rfl hr, fun s off v hn hop hr => faults hn hop rfl hr,
    fun s off n hn hop hr => faults hn hop rfl hr, fun s off n hn hop hr => faults hn hop rfl hr,
    fun s z off hn hop => faults hn hop rfl trivial, fun s a h => ?_⟩
  obtain ⟨hn, ha, hr⟩ := step_fault_iff.mp h
  refine ⟨hn, ?_⟩
  cases hop : s.hostOp <;> rw [hop] at ha <;> cases ha
  case wr32 => exact ⟨rfl, hr⟩
  case wr8 => exact ⟨rfl, hr⟩
  case rd32 => exact ⟨⟨_, rfl⟩, hr⟩
  case rd8 => exact ⟨⟨_, rfl⟩, hr⟩
  case other => exact rfl

end Machine
end Sys2Proof
end

section
/-! PROOFS, memory family. ENCODE's header in WB, field by field (20_memory.md R66, R90). -/

namespace Sys2Proof.Machine

open Sys2Proof.Claims

/-- Packing is writing LEN above FLAGS (30_encoding.md R97). -/
theorem packLenFlags_eq_append (l : BitVec 29) (f : BitVec 3) : packLenFlags l f = l ++ f := by
  rw [packLenFlags, BitVec.append_def, BitVec.shiftLeftZeroExtend_eq, BitVec.setWidth'_eq]

/-- A byte string read within a longer one. -/
theorem State.wbBytes_eq_take_drop (s : State) {m n k : Nat} (h : m + n ≤ k) :
    s.wbBytes m n = ((s.wbBytes 0 k).drop m).take n := by
  obtain ⟨j, rfl⟩ := Nat.exists_eq_add_of_le h
  simp [State.wbBytes_append, Nat.add_assoc]

/-! A field's byte is a byte of the field: the lowest offset holds its top 8 bits. -/

theorem wbByte_eq_of_word4 (s : State) (a : Nat) : s.wbByte a = (word4 s a).extractLsb' 24 8 := by
  rw [word4]
  iterate 3 rw [BitVec.extractLsb'_append_eq_of_le (by decide)]
  exact BitVec.extractLsb'_eq_self.symm

theorem wbByte_add_three_eq_of_word4 (s : State) (a : Nat) : s.wbByte (a + 3) = (word4 s a).extractLsb' 0 8 := by
  rw [word4, BitVec.extractLsb'_append_eq_right]

theorem wbByte_eq_of_word2 (s : State) (a : Nat) : s.wbByte a = (word2 s a).extractLsb' 8 8 := by
  rw [word2, BitVec.extractLsb'_append_eq_left]

theorem wbByte_add_one_eq_of_word2 (s : State) (a : Nat) : s.wbByte (a + 1) = (word2 s a).extractLsb' 0 8 := by
  rw [word2, BitVec.extractLsb'_append_eq_right]

@[simp] theorem word4_complete (s : State) (e : Err) (v : Bool) (a : Nat) : word4 (s.complete e v) a = word4 s a := by
  simp [word4]

@[simp] theorem word2_complete (s : State) (e : Err) (v : Bool) (a : Nat) : word2 (s.complete e v) a = word2 s a := by
  simp [word2]

/-- The seven fields that ENCODE's writes leave in the header. -/
theorem State.writeFrame_fields (s : State) :
    word4 s.writeFrame 0 = s.seq ∧ word4 s.writeFrame 4 = s.ackno ∧ word4 s.writeFrame 8 = s.tsHi ∧
    word4 s.writeFrame 12 = s.tsLo ∧ word4 s.writeFrame 16 = s.len ++ s.flags ∧
    word2 s.writeFrame 20 = s.encodeChecksum ∧ word2 s.writeFrame 22 = 0 := by
  have header : s.writeFrame.wbBytes 0 24 = beBytes 4 s.seq.toNat ++ beBytes 4 s.ackno.toNat ++
      (beBytes 4 s.tsHi.toNat ++ beBytes 4 s.tsLo.toNat) ++ beBytes 4 (s.len ++ s.flags).toNat ++
      beBytes 2 s.encodeChecksum.toNat ++ beBytes 2 0 := by
    rw [← beBytes_append_halves s.tsHi, ← packLenFlags_eq_append]
    exact (State.wbBytes_congr fun i _ _ => s.wbByte_writeFrame i).trans (s.wbBytes_headerOnly _)
  have field {m n : Nat} (h : m + n ≤ 24) := header ▸ s.writeFrame.wbBytes_eq_take_drop h
  refine ⟨word4_eq_of_wbBytes ?_, word4_eq_of_wbBytes ?_, word4_eq_of_wbBytes ?_, word4_eq_of_wbBytes ?_,
    word4_eq_of_wbBytes ?_, word2_eq_of_wbBytes ?_, word2_eq_of_wbBytes ?_⟩
  all_goals exact field (by decide)

theorem execEncode_of_room {s : State} (h : 24 + s.len.toNat ≤ s.cap.toNat) :
    exec .encode s = .next (s.writeFrame.complete .ok false) := if_neg (Nat.not_lt_of_le h)

/-- Settles O9: the header's fields, and each named byte read off its field. -/
theorem encodedFieldsAreBigEndian : Obligations.EncodedFieldsAreBigEndian := by
  intro s h
  refine ⟨_, execEncode_of_room h, ?_⟩
  simp only [word4_complete, word2_complete, State.wbByte_complete, State.complete_cksum, State.writeFrame_cksum]
  obtain ⟨hseq, hack, htsHi, htsLo, hlen, hsum, hpad⟩ := s.writeFrame_fields
  refine ⟨hseq, hack, htsHi, htsLo, hlen, hsum, hpad, ?_, ?_, ?_, ?_, ?_, ?_⟩
  · rw [wbByte_eq_of_word4, hseq]
  · rw [wbByte_add_three_eq_of_word4 _ 0, hseq]
  · rw [wbByte_eq_of_word4, htsHi, State.timestamp, BitVec.extractLsb'_append_eq_of_le (by decide)]
  · rw [wbByte_add_three_eq_of_word4 _ 12, htsLo, State.timestamp, BitVec.extractLsb'_append_eq_of_add_le (by decide)]
  · rw [wbByte_eq_of_word2, hsum]
  · rw [wbByte_add_one_eq_of_word2 _ 20, hsum]

end Sys2Proof.Machine
end

section
/-! PROOFS, encoding family. The opcode map (30_encoding.md R106, R107). -/

namespace Sys2Proof

@[simp] theorem cmdRsvd_encode (i : Instr) : cmdRsvd (encode i) = 0 := BitVec.extractLsb'_append_eq_left

@[simp] theorem cmdOp_encode (i : Instr) : cmdOp (encode i) = i.op := BitVec.extractLsb'_append_eq_right

theorem decode_of_fields {c : Word} {i : Instr} (hr : cmdRsvd c = 0) (ho : cmdOp c = i.op) : decode c = .ok i := by
  have hc : c = encode i := by rw [← cmdRsvd_append_cmdOp c, hr, ho, encode]; rfl
  rw [hc, decode_encode]

/-- The decoder rejects exactly the reserved words (30_encoding.md R107, R110). -/
theorem exists_decode_error_iff {c : Word} : (∃ r, decode c = .error r) ↔ ∀ i, c ≠ encode i := by
  constructor
  · rintro ⟨r, hr⟩
    exact ne_encode_of_decode_error hr
  · intro hc
    cases hd : decode c with
    | error r => exact ⟨r, rfl⟩
    | ok i => exact absurd (eq_encode_of_decode hd) (hc i)

/-- A table word of the command format is decoded as it stands (30_encoding.md R106). -/
theorem decodeTableWord_of_decode {c : Word} {i : Instr} (h : decode c = .ok i) : decodeTableWord 32 c.toNat = some i := by
  rw [decodeTableWord, Nat.mod_eq_of_lt c.isLt, if_pos c.isLt, BitVec.ofNat_toNat, BitVec.setWidth_eq, h]

namespace Machine

open Sys2Proof.Claims

theorem State.raiseErr_eq_failed (s : State) (e : Err) : s.raiseErr e = failed s e.code := rfl

/-- A rejected word completes with ILLEGAL_CMD (60_exceptions.md R183). -/
theorem codecTurn_of_rejected {s : State} {c : Word} {r : DecodeReject} (hp : s.phase = .busy c)
    (hr : decode c = .error r) : codecTurn s = .next (s.raiseErr .illegalCmd) := by
  simp only [codecTurn, hp, hr, execIllegal]

/-- Settles O3: a word decodes to a command exactly when its two fields are that command's. -/
theorem opcodeMapSelects : Obligations.OpcodeMapSelects := by
  refine ⟨fun c hr => exists_decode_error_iff.mpr ?_, fun c hr => ⟨?_, ?_, ?_, ?_, fun ho =>
    exists_decode_error_iff.mpr ?_⟩, ?_⟩
  · rintro i rfl
    exact hr (cmdRsvd_encode i)
  · exact decode_of_fields (i := .encode) hr
  · exact decode_of_fields (i := .decode) hr
  · exact decode_of_fields (i := .verify) hr
  · exact decode_of_fields (i := .csum) hr
  · rintro i rfl
    have hop : (encode i).extractLsb' 0 3 = i.op := cmdOp_encode i
    rw [hop] at ho
    cases i <;> revert ho <;> decide
  · intro s c hp h1 h2 h3 h4
    have reserved : ∀ i, c ≠ encode i
      | .encode => h1
      | .decode => h2
      | .verify => h3
      | .csum => h4
    obtain ⟨r, hr⟩ := exists_decode_error_iff.mpr reserved
    rw [codecTurn_of_rejected hp hr, State.raiseErr_eq_failed, Err.code]

/-- Settles O1: the four commands' words, and three words that the map rejects. -/
theorem commandWordsDecode : Obligations.CommandWordsDecode := by
  exact ⟨decode_encode .encode, decode_encode .decode, decode_encode .verify, decode_encode .csum, by decide, by decide,
    by decide⟩

/-- Settles O2: the decoder and the encoder are inverse to each other, also through the host's table words. -/
theorem decodeEncodeAgree : Obligations.DecodeEncodeAgree := by
  exact ⟨fun i _ => ⟨decode_encode i, decodeTableWord_of_decode (decode_encode i)⟩, fun _ _ => eq_encode_of_decode⟩

end Machine
end Sys2Proof
end

section
/-! PROOFS, encoding family. The packed length and flags (30_encoding.md R95 to R97), and DECODE by the length they
declare (R102). -/

namespace Sys2Proof.Machine

open Sys2Proof.Claims

/-- The length is the word's bits 31..3 (30_encoding.md R95). -/
theorem lenOf_eq_extractLsb' (w : Word) : lenOf w = w.extractLsb' 3 29 := rfl

/-- The flags are the word's bits 2..0 (30_encoding.md R96). -/
theorem flagsOf_eq_extractLsb' (w : Word) : flagsOf w = w.extractLsb' 0 3 := by
  rw [flagsOf, BitVec.setWidth_and, show (0x7 : Word).setWidth 3 = BitVec.allOnes 3 from rfl, BitVec.and_allOnes,
    BitVec.setWidth_eq_extractLsb' (by decide)]

/-- Settles O31: the packed word is LEN above FLAGS, with no bit in common. -/
theorem lengthFlagsPackingExact : Obligations.LengthFlagsPackingExact := by
  intro l f
  rw [packLenFlags_eq_append]
  refine ⟨?_, ?_, ?_⟩
  · rw [lenOf_eq_extractLsb', BitVec.extractLsb'_append_eq_left]
  · rw [flagsOf_eq_extractLsb', BitVec.extractLsb'_append_eq_right]
  · rw [BitVec.toNat_append, ← Nat.shiftLeft_add_eq_or_of_lt f.isLt, Nat.shiftLeft_eq]

/-- The length DECODE reads is the one the frame declares (30_encoding.md R94, R95). -/
theorem State.lenOf_wireLenFlags (s : State) : lenOf s.wireLenFlags = wireLen s := by
  rw [lenOf_eq_extractLsb', State.wireLenFlags, State.ofNat_memRead_four, wireLen]

/-- DECODE of a buffer that holds the declared frame (40_frame_codec.md R123). -/
theorem execDecode_of_frame {s : State} (hcap : s.wblen.toNat ≤ s.cap.toNat) (hlen : 24 + (wireLen s).toNat ≤ s.wblen.toNat) :
    exec .decode s = .next (s.readFrame.complete .ok false) := by
  rw [exec, execDecode, State.lenOf_wireLenFlags, Config.hdr, State.wbCap]
  rw [if_neg (by omega), if_neg (by omega), if_neg (by omega)]

/-! WBLEN is no part of what is read of WB. -/

theorem State.memRead_withWblen (s : State) (n : Word) (a k : Nat) : { s with wblen := n }.memRead a k = s.memRead a k :=
  State.memRead_congr fun _ _ _ => rfl

theorem State.readFrame_withWblen (s : State) (n : Word) :
    { s with wblen := n }.readFrame = { s.readFrame with wblen := n } := by
  rw [State.readFrame, State.wireLenFlags]
  simp only [State.memRead_withWblen]
  rw [State.readFrame, State.wireLenFlags]

/-- Settles O17: DECODE reads the header and no byte by WBLEN once the frame is held. -/
theorem decodeIgnoresTrailingBytes : Obligations.DecodeIgnoresTrailingBytes := by
  intro s n m hn hm hln hlm
  have decodes {k : Word} (hcap : k.toNat ≤ s.cap.toNat) (hlen : 24 + (wireLen s).toNat ≤ k.toNat) :
      exec .decode { s with wblen := k } = .next { s.readFrame.complete .ok false with wblen := k } := by
    rw [execDecode_of_frame (s := { s with wblen := k }) hcap hlen, State.readFrame_withWblen]
    rfl
  exact ⟨_, decodes hn hln, decodes hm hlm, rfl⟩

end Sys2Proof.Machine
end

section
/-! PROOFS, encoding family. The lines of a host program (30_encoding.md R108). -/

namespace Sys2Proof.Machine

/-- The host after a line that names the value `v` it read. -/
def HostAgent.afterRead (a : HostAgent) (n : Nat) (v : Word) : HostAgent :=
  { a with line := a.line + 1, vals := cellsWrite a.vals n [v] }

theorem State.hostBind_hostNext (s : State) (n : Nat) (v : Word) :
    (s.hostBind n v).hostNext = { s with host := s.host.afterRead n v } := rfl

/-- The value read is under its name, every other name as before. -/
theorem HostAgent.cellGet?_afterRead (a : HostAgent) (n : Nat) (v : Word) (k : Nat) :
    cellGet? (a.afterRead n v).vals k = if k = n then some v else cellGet? a.vals k := by
  rw [HostAgent.afterRead, cellGet?_cellsWrite]
  by_cases hk : k = n
  · simp [hk]
  · rw [if_neg hk, if_neg (by rw [List.length_singleton]; omega)]

/-! The block's accesses leave the host alone. -/

theorem State.busWrite32_host {s u : State} {off v : Word} (h : s.busWrite32 off v = some u) : u.host = s.host := by
  rcases State.busWrite32_cases h with ⟨-, -, rfl⟩ | ⟨r, -, -, rfl⟩ | ⟨-, i, -, -, -, rfl⟩
  · exact s.dropWrite_host
  · obtain ⟨-, hhost, -⟩ := s.writeReg_frame v r
    exact hhost
  · simp

theorem State.busWrite8_host {s u : State} {off : Word} {v : Byte} (h : s.busWrite8 off v = some u) : u.host = s.host := by
  rcases State.busWrite8_cases h with ⟨-, rfl⟩ | ⟨-, i, -, -, rfl⟩ <;> simp

theorem State.busRead32_host {s u : State} {off v : Word} (h : s.busRead32 off = some (v, u)) : u.host = s.host := by
  rcases State.busRead32_cases h with rfl | ⟨-, -, rfl⟩ <;> simp

theorem State.busRead8_host {s u : State} {off : Word} {v : Byte} (h : s.busRead8 off = some (v, u)) : u.host = s.host := by
  rcases State.busRead8_cases h with rfl | ⟨-, rfl⟩ <;> simp

/-! One equation per access line. -/

theorem hostWrote_some {s u : State} (a : Access) (hu : u.host = s.host) :
    hostWrote a (some u) = .next { u with host := { s.host with line := s.host.line + 1 } } := hu ▸ rfl

theorem hostRead_some {s u : State} (a : Access) (n : Nat) (v : Word) (hu : u.host = s.host) :
    hostRead a n (some (v, u)) = .next { u with host := s.host.afterRead n v } := hu ▸ rfl

theorem hostTurn_wr32 {s u : State} {off v : Word} (hop : s.hostOp = .wr32 off v) (h : s.busWrite32 off v = some u) :
    hostTurn s = .next { u with host := { s.host with line := s.host.line + 1 } } := by
  rw [hostTurn, hop, hostLine, h, hostWrote_some _ (State.busWrite32_host h)]

theorem hostTurn_wr8 {s u : State} {off : Word} {v : Byte} (hop : s.hostOp = .wr8 off v) (h : s.busWrite8 off v = some u) :
    hostTurn s = .next { u with host := { s.host with line := s.host.line + 1 } } := by
  rw [hostTurn, hop, hostLine, h, hostWrote_some _ (State.busWrite8_host h)]

theorem hostTurn_rd32 {s u : State} {off v : Word} {n : Nat} (hop : s.hostOp = .rd32 off n)
    (h : s.busRead32 off = some (v, u)) : hostTurn s = .next { u with host := s.host.afterRead n v } := by
  rw [hostTurn, hop, hostLine, h, hostRead_some _ _ _ (State.busRead32_host h)]

/-- An 8-bit value is named below 24 zeros. -/
theorem hostTurn_rd8 {s u : State} {off : Word} {v : Byte} {n : Nat} (hop : s.hostOp = .rd8 off n)
    (h : s.busRead8 off = some (v, u)) : hostTurn s = .next { u with host := s.host.afterRead n (0#24 ++ v) } := by
  rw [hostTurn, hop, hostLine, h, Option.map_some, hostRead_some _ _ _ (State.busRead8_host h),
    ← setWidth_add_eq_zero_append]

/-- Settles O44: the equation of each line, and the one law of naming a value. -/
theorem accessLinesAct : Obligations.AccessLinesAct := by
  have named (a : HostAgent) (n : Nat) (v : Word) : cellGet? (a.afterRead n v).vals n = some v ∧
      ∀ k, k ≠ n → cellGet? (a.afterRead n v).vals k = cellGet? a.vals k :=
    ⟨(a.cellGet?_afterRead n v n).trans (if_pos rfl), fun k hk => (a.cellGet?_afterRead n v k).trans (if_neg hk)⟩
  exact ⟨fun s u off v => hostTurn_wr32, fun s u off v => hostTurn_wr8,
    fun s u off v n hop h => ⟨_, hostTurn_rd32 hop h, rfl, rfl, named s.host n v⟩,
    fun s u off v n hop h => ⟨_, hostTurn_rd8 hop h, rfl, rfl, named s.host n _⟩⟩

/-! POLL and the branches. -/

/-- A POLL reads STATUS, whose bit 0 is BUSY (10_state.md R37). -/
theorem hostTurn_poll {s : State} {n : Nat} (hop : s.hostOp = .poll n) :
    hostTurn s = .next (if s.busy = true then s else { s with host := s.host.afterRead n s.statusWord }) := by
  have bit : s.statusWord.getLsbD 0 = s.busy := s.getLsbD_statusWord 0
  rw [hostTurn, hop, hostLine, State.busRead32_offset (r := .status) fun _ => rfl, State.readReg, hostPolled, bit,
    State.hostBind_hostNext]
  split <;> rfl

/-- A branch goes to its label's line when its condition's value is the wanted one, else to the next line. -/
theorem State.hostBranch_of_read {s : State} {c : Cond} {l k : Nat} {w : Word} (want : Bool)
    (hw : cellGet? s.host.vals c.name = some w) (hl : labelLine s.host.prog l = some k) :
    s.hostBranch c want l = .next { s with host := { s.host with
      line := if (w.toNat / 2 ^ c.lo % 2 ^ (c.hi - c.lo + 1) == c.value) = want then k else s.host.line + 1 } } := by
  simp only [State.hostBranch, condHolds, hw, State.hostGoto, hl, State.hostNext, beq_iff_eq]
  split <;> rfl

/-- Settles O45: POLL by BUSY, a branch by its condition, and the lines that make no access. -/
theorem pollBranchHalt : Obligations.PollBranchHalt := by
  refine ⟨fun s n hop hb => ?_, fun s n hop hb => ⟨s.host.afterRead n s.statusWord, ?_, rfl, ?_, rfl⟩,
    fun s c l k w hw hl => ⟨fun hop => ?_, fun hop => ?_⟩, fun s l hop => ?_, fun s hop => ?_⟩
  · rw [hostTurn_poll hop, if_pos hb]
  · rw [hostTurn_poll hop, if_neg (by simp [hb])]
  · rw [HostAgent.cellGet?_afterRead, if_pos rfl]
  · simp [hostTurn, hop, hostLine, State.hostBranch_of_read true hw hl]
  · simp [hostTurn, hop, hostLine, State.hostBranch_of_read false hw hl]
  · rw [hostTurn, hop, hostLine, State.hostNext]
  · rw [hostTurn, hop, hostLine]

end Sys2Proof.Machine
end

section
/-! PROOFS, frame-codec family. The frame that lies in WB, field by field (30_encoding.md R90), and what an issue and a
completion leave of it. -/

namespace Sys2Proof.Machine

open Sys2Proof.Claims

/-! ## Issue and completion leave WB as it is -/

@[simp] theorem State.wbBytes_issue (s : State) (c : Word) (a n : Nat) : (s.issue c).wbBytes a n = s.wbBytes a n :=
  State.wbBytes_congr fun i _ _ => s.wbByte_issue c i

@[simp] theorem State.wbBytes_complete (s : State) (e : Err) (v : Bool) (a n : Nat) :
    (s.complete e v).wbBytes a n = s.wbBytes a n := State.wbBytes_congr fun i _ _ => s.wbByte_complete e v i

@[simp] theorem State.wbBytes_readFrame (s : State) (a n : Nat) : s.readFrame.wbBytes a n = s.wbBytes a n :=
  State.wbBytes_congr fun i _ _ => s.wbByte_readFrame i

@[simp] theorem word4_issue (s : State) (c : Word) (a : Nat) : word4 (s.issue c) a = word4 s a := by simp [word4]

@[simp] theorem word2_issue (s : State) (c : Word) (a : Nat) : word2 (s.issue c) a = word2 s a := by simp [word2]

@[simp] theorem word4_setCsres (s : State) (v : Half) (a : Nat) : word4 (s.setCsres v) a = word4 s a := by simp [word4]

@[simp] theorem word2_setCsres (s : State) (v : Half) (a : Nat) : word2 (s.setCsres v) a = word2 s a := by simp [word2]

@[simp] theorem wireLen_setCsres (s : State) (v : Half) : wireLen (s.setCsres v) = wireLen s := by simp [wireLen]

@[simp] theorem State.frameToSend_issue (s : State) (c : Word) (k : Half) :
    (s.issue c).frameToSend k = s.frameToSend k := by simp [State.frameToSend, State.timestamp]

@[simp] theorem State.frameToSend_complete (s : State) (e : Err) (v : Bool) (k : Half) :
    (s.complete e v).frameToSend k = s.frameToSend k := by simp [State.frameToSend, State.timestamp]

/-- Byte strings that are equal have equal bytes. -/
theorem State.wbByte_eq_of_wbBytes {s t : State} {n i : Nat} (h : s.wbBytes 0 n = t.wbBytes 0 n) (hi : i < n) :
    s.wbByte i = t.wbByte i := by
  have hbyte := congrArg (·[i]?) h
  simpa [State.wbBytes_getElem? _ hi] using hbyte

/-! ## The received frame -/

theorem State.ofNat_memRead_two (s : State) (a : Nat) : BitVec.ofNat 16 (s.memRead a 2) = word2 s a := by
  rw [← word2_toNat, BitVec.ofNat_toNat, BitVec.setWidth_eq]

theorem beBytes_word4 (s : State) (a : Nat) : beBytes 4 (word4 s a).toNat = s.wbBytes a 4 := by
  simpa [word4_toNat, State.memRead] using beBytes_beNat (s.wbBytes a 4)

theorem beBytes_word2 (s : State) (a : Nat) : beBytes 2 (word2 s a).toNat = s.wbBytes a 2 := by
  simpa [word2_toNat, State.memRead] using beBytes_beNat (s.wbBytes a 2)

/-- LEN above FLAGS is the word they are taken from (30_encoding.md R95 to R97). -/
theorem packLenFlags_wire (s : State) : packLenFlags (wireLen s) ((word4 s 16).extractLsb' 0 3) = word4 s 16 := by
  rw [packLenFlags_eq_append]
  exact BitVec.extractLsb'_append_extractLsb'

/-- The frame in WB as its receiver sees it, trailing bytes left out (30_encoding.md R90, R102). -/
def State.receivedFrame (s : State) : Frame where
  seq := word4 s 0
  ack := word4 s 4
  timestamp := word4 s 8 ++ word4 s 12
  len := wireLen s
  flags := (word4 s 16).extractLsb' 0 3
  checksum := word2 s 20
  padding := word2 s 22
  payload := s.wbBytes 24 (wireLen s).toNat

@[simp] theorem State.receivedFrame_issue (s : State) (c : Word) : (s.issue c).receivedFrame = s.receivedFrame := by
  simp [State.receivedFrame, wireLen]

@[simp] theorem State.receivedFrame_complete (s : State) (e : Err) (v : Bool) :
    (s.complete e v).receivedFrame = s.receivedFrame := by simp [State.receivedFrame, wireLen]

/-- WB holds the bytes of the received frame. -/
theorem State.wbBytes_eq_receivedFrame (s : State) :
    s.wbBytes 0 (24 + (wireLen s).toNat) = frameBytes s.receivedFrame := by
  simp only [frameBytes, State.receivedFrame, beBytes_append_halves, packLenFlags_wire, beBytes_word4, beBytes_word2]
  rw [State.wbBytes_append _ 0 24, State.wbBytes_append _ 0 22 2, State.wbBytes_append _ 0 20 2,
    State.wbBytes_append _ 0 16 4, State.wbBytes_append _ 0 12 4, State.wbBytes_append _ 0 8 4,
    State.wbBytes_append _ 0 4 4]
  simp only [Nat.zero_add, List.append_assoc]

/-- The word sum of a frame, its checksum and padding fields apart (41_checksum.md R150, R151). -/
theorem wordSum_frameBytes (f : Frame) : wordSum (frameBytes f) =
    wordSum (frameBytes { f with checksum := 0, padding := 0 }) + f.checksum.toNat + f.padding.toNat := by
  have field (k : Half) : wordSum (beBytes 2 k.toNat) = k.toNat := wordSum_beBytes_two k.isLt
  have zero : wordSum (beBytes 2 (0 : Half).toNat) = 0 := rfl
  simp only [frameBytes, List.append_assoc, wordSum_append, beBytes_length, Nat.reduceMod, zero, field]
  omega

end Sys2Proof.Machine
end

section
/-! PROOFS, frame-codec family. DECODE and ENCODE, each as one equation (40_frame_codec.md R121 to R123). -/

namespace Sys2Proof.Machine

open Sys2Proof.Claims

/-! ## DECODE -/

theorem State.flagsOf_wireLenFlags (s : State) : flagsOf s.wireLenFlags = (word4 s 16).extractLsb' 0 3 := by
  rw [flagsOf_eq_extractLsb', State.wireLenFlags, State.ofNat_memRead_four]

/-- DECODE's writes in the words of the received frame (40_frame_codec.md R123). -/
theorem State.readFrame_eq (s : State) : s.readFrame =
    { s with
      seq := word4 s 0, ackno := word4 s 4, tsHi := word4 s 8, tsLo := word4 s 12,
      len := wireLen s, flags := (word4 s 16).extractLsb' 0 3, cksum := word2 s 20, pad := word2 s 22 } := by
  rw [State.readFrame, State.lenOf_wireLenFlags, State.flagsOf_wireLenFlags]
  simp only [State.ofNat_memRead_four, State.ofNat_memRead_two]

/-- DECODE takes the fields of the received frame. -/
theorem State.readFrame_fields {s : State} {f : Frame} (h : s.receivedFrame = f) :
    s.readFrame.seq = f.seq ∧ s.readFrame.ackno = f.ack ∧ s.readFrame.tsHi ++ s.readFrame.tsLo = f.timestamp ∧
    s.readFrame.len = f.len ∧ s.readFrame.flags = f.flags ∧ s.readFrame.cksum = f.checksum ∧
    s.readFrame.pad = f.padding := by
  subst h
  rw [State.readFrame_eq]
  exact ⟨rfl, rfl, rfl, rfl, rfl, rfl, rfl⟩

/-- Settles O11: the checks in their order, then the writes in the words of the frame. -/
theorem decodeReadsFrame : Obligations.DecodeReadsFrame := by
  refine ⟨rfl, fun s => ?_⟩
  rw [exec, execDecode, State.lenOf_wireLenFlags, State.readFrame_eq, Config.hdr, State.wbCap]
  split_ifs <;> rfl

/-- A DECODE without error found the declared frame within WBLEN and WB_CAP (60_exceptions.md R184 to R186). -/
theorem decode_of_err_zero {s t : State} (h : exec .decode s = .next t) (herr : t.status.err = 0) :
    s.wblen.toNat ≤ s.cap.toNat ∧ 24 + (wireLen s).toNat ≤ s.wblen.toNat ∧ t = s.readFrame.complete .ok false := by
  rcases execDecode_cases h with ⟨-, rfl⟩ | ⟨-, -, rfl⟩ | ⟨-, -, -, rfl⟩ | ⟨hcap, hlen, rfl⟩
  case inr.inr.inr => exact ⟨hcap, s.lenOf_wireLenFlags ▸ hlen, rfl⟩
  all_goals cases herr

/-! ## ENCODE -/

/-- ENCODE of a frame that WB has no room for (60_exceptions.md R187). -/
theorem execEncode_of_no_room {s : State} (h : s.cap.toNat < 24 + s.len.toNat) :
    exec .encode s = .next (failed s 5) := if_pos h

/-- 24 + LEN fits in WBLEN, as LEN has 29 bits (10_state.md R27). -/
theorem State.writeFrame_wblen_toNat (s : State) : s.writeFrame.wblen.toNat = 24 + s.len.toNat := by
  have hlen := s.len.isLt
  rw [State.writeFrame_wblen, BitVec.toNat_ofNat, Config.hdr]
  omega

/-- Settles O6: with room, the writes of the frame and the registers they leave; without, the failure. -/
theorem encodeWritesFrame : Obligations.EncodeWritesFrame := by
  refine ⟨rfl, fun s => ⟨fun hroom => ⟨_, execEncode_of_room hroom, ?_⟩, execEncode_of_no_room⟩⟩
  refine ⟨?frame, ?cksum, by simp, s.writeFrame_wblen_toNat, ?status, rfl, ?payload, ?_⟩
  case frame => simpa using s.wbBytes_writeFrame
  case cksum => simpa using s.encodeChecksum_eq
  case status => rw [State.complete_status, State.writeFrame_status]; rfl
  case payload => exact fun i hi => by simpa using s.wbByte_writeFrame_of_payload hi
  simp

/-! ENCODE's operands are all that its frame is made of (40_frame_codec.md R122). -/

theorem State.frameToSend_of_sameEncodeInputs {s r : State} (h : sameEncodeInputs s r) (k : Half) :
    s.frameToSend k = r.frameToSend k := by
  obtain ⟨hseq, hack, htsHi, htsLo, hlen, hflags, -, hbyte⟩ := h
  have hpayload : s.wbBytes 24 r.len.toNat = r.wbBytes 24 r.len.toNat := State.wbBytes_congr (hlen ▸ hbyte)
  simp only [State.frameToSend, State.timestamp, Config.hdr, hseq, hack, htsHi, htsLo, hlen, hflags, hpayload]

theorem State.encodeChecksum_of_sameEncodeInputs {s r : State} (h : sameEncodeInputs s r) :
    s.encodeChecksum = r.encodeChecksum := by
  rw [State.encodeChecksum_eq, State.encodeChecksum_eq, State.frameToSend_of_sameEncodeInputs h]

/-- With the same operands ENCODE leaves the same bytes of WB up to the end of the frame. -/
theorem State.wbByte_writeFrame_of_sameEncodeInputs {s r : State} (h : sameEncodeInputs s r) {i : Nat}
    (hi : i < 24 + s.len.toNat) : s.writeFrame.wbByte i = r.writeFrame.wbByte i := by
  obtain ⟨-, -, -, -, hlen, -⟩ := id h
  have hframe : s.writeFrame.wbBytes 0 (24 + s.len.toNat) = r.writeFrame.wbBytes 0 (24 + s.len.toNat) := by
    rw [State.wbBytes_writeFrame, hlen, State.wbBytes_writeFrame, State.encodeChecksum_of_sameEncodeInputs h,
      State.frameToSend_of_sameEncodeInputs h]
  exact State.wbByte_eq_of_wbBytes hframe hi

/-- Settles O8: both states have room or neither has, and with room they write one frame. -/
theorem encodeIsDeterministic : Obligations.EncodeIsDeterministic := by
  intro s r t u h ht hu
  obtain ⟨-, -, -, -, hlen, -, hcap, -⟩ := id h
  by_cases hroom : 24 + s.len.toNat ≤ s.cap.toNat
  · cases (execEncode_of_room hroom).symm.trans ht
    cases (execEncode_of_room (hcap ▸ hlen ▸ hroom)).symm.trans hu
    refine ⟨rfl, fun _ => ⟨?_, ?_, ?_, fun i hi => ?_⟩⟩
    · simpa using State.encodeChecksum_of_sameEncodeInputs h
    · simp
    · simp [hlen]
    · simpa using State.wbByte_writeFrame_of_sameEncodeInputs h hi
  · have hno : s.cap.toNat < 24 + s.len.toNat := Nat.lt_of_not_le hroom
    cases (execEncode_of_no_room hno).symm.trans ht
    cases (execEncode_of_no_room (hcap ▸ hlen ▸ hno)).symm.trans hu
    exact ⟨rfl, nofun⟩

end Sys2Proof.Machine
end

section
/-! PROOFS, frame-codec family. DECODE after ENCODE and ENCODE after DECODE (40_frame_codec.md R124, R125). -/

namespace Sys2Proof.Machine

open Sys2Proof.Claims

/-! ## DECODE after ENCODE -/

/-- The frame that a receiver finds in WB after ENCODE is the frame sent. -/
theorem State.receivedFrame_writeFrame (s : State) : s.writeFrame.receivedFrame = s.frameToSend s.encodeChecksum := by
  obtain ⟨hseq, hack, htsHi, htsLo, hword, hsum, hpad⟩ := s.writeFrame_fields
  have hlen : wireLen s.writeFrame = s.len := by rw [wireLen, hword, BitVec.extractLsb'_append_eq_left]
  have hflags : (word4 s.writeFrame 16).extractLsb' 0 3 = s.flags := by
    rw [hword, BitVec.extractLsb'_append_eq_right]
  have hpayload : s.writeFrame.wbBytes 24 s.len.toNat = s.wbBytes 24 s.len.toNat :=
    State.wbBytes_congr fun i hi _ => s.wbByte_writeFrame_of_payload hi
  rw [State.receivedFrame, hseq, hack, htsHi, htsLo, hlen, hflags, hsum, hpad, hpayload]
  rfl

/-- Settles O13: the frame received is the frame sent, and DECODE takes its fields. -/
theorem decodeAfterEncodeRoundTrip : Obligations.DecodeAfterEncodeRoundTrip := by
  intro s t hroom ht
  cases (execEncode_of_room hroom).symm.trans ht
  have hframe : ((s.writeFrame.complete .ok false).issue 2).receivedFrame = s.frameToSend s.encodeChecksum := by
    rw [State.receivedFrame_issue, State.receivedFrame_complete, State.receivedFrame_writeFrame]
  have hwblen : s.writeFrame.wblen.toNat = 24 + s.len.toNat := s.writeFrame_wblen_toNat
  have hwire : wireLen ((s.writeFrame.complete .ok false).issue 2) = s.len := congrArg Frame.len hframe
  obtain ⟨hseq, hack, hts, hlen, hflags, hsum, hpad⟩ := State.readFrame_fields hframe
  refine ⟨_, execDecode_of_frame ?room ?held, ?status, hseq, hack, hts, hlen, hflags, ?payload, ?cksum, hpad⟩
  case room =>
    rw [State.issue_wblen, State.complete_wblen, hwblen]
    simpa using hroom
  case held => rw [hwire, State.issue_wblen, State.complete_wblen, hwblen]
  case status => rw [State.complete_status, State.readFrame_status]; rfl
  case payload =>
    intro i hi _
    simpa using s.wbByte_writeFrame_of_payload hi
  case cksum => exact hsum.trans s.writeFrame_cksum.symm

/-! ## ENCODE after DECODE -/

/-- ENCODE after DECODE sends the received frame with zero padding and a checksum of its own (40_frame_codec.md R125). -/
theorem State.frameToSend_readFrame (s : State) (k : Half) :
    s.readFrame.frameToSend k = { s.receivedFrame with checksum := k, padding := 0 } := by
  rw [State.frameToSend, State.timestamp, State.wbBytes_readFrame, State.readFrame_eq]
  rfl

/-- The state that ENCODE's issue after DECODE leaves. -/
def State.reencoding (s : State) : State := (s.readFrame.complete .ok false).issue 1

@[simp] theorem State.reencoding_len (s : State) : s.reencoding.len = wireLen s := by
  simp [State.reencoding, State.lenOf_wireLenFlags]

@[simp] theorem State.reencoding_wbByte (s : State) (i : Nat) : s.reencoding.wbByte i = s.wbByte i := by
  simp [State.reencoding]

/-- What ENCODE makes of the received frame. -/
theorem State.frameToSend_reencoding (s : State) (k : Half) :
    s.reencoding.frameToSend k = { s.receivedFrame with checksum := k, padding := 0 } := by
  rw [State.reencoding, State.frameToSend_issue, State.frameToSend_complete, State.frameToSend_readFrame]

/-- After a DECODE without error ENCODE has room, as the frame it sends is as long as the one received. -/
theorem encode_of_decoded {s t : State} (h : exec .decode s = .next t) (herr : t.status.err = 0) :
    exec .encode (t.issue 1) = .next (s.reencoding.writeFrame.complete .ok false) := by
  obtain ⟨hcap, hlen, rfl⟩ := decode_of_err_zero h herr
  refine execEncode_of_room (s := s.reencoding) ?_
  rw [State.reencoding_len, State.reencoding, State.issue_cap, State.complete_cap, State.readFrame_cap]
  exact hlen.trans hcap

/-- A received frame with zero padding and the checksum that ENCODE computes is written again byte for byte. -/
theorem State.wbByte_reencoded {s : State} (hpad : word2 s 22 = 0) (hsum : word2 s 20 = s.reencoding.encodeChecksum)
    (i : Nat) : s.reencoding.writeFrame.wbByte i = s.wbByte i := by
  by_cases hi : i < 24 + (wireLen s).toNat
  · refine State.wbByte_eq_of_wbBytes ?_ hi
    have hsame : s.reencoding.frameToSend s.reencoding.encodeChecksum = s.receivedFrame := by
      rw [State.frameToSend_reencoding, ← hsum, ← hpad]
      rfl
    have hwritten := s.reencoding.wbBytes_writeFrame
    rwa [State.reencoding_len, hsame, ← State.wbBytes_eq_receivedFrame] at hwritten
  · rw [State.wbByte_writeFrame_of_payload _ (by omega), State.reencoding_wbByte]

/-- Settles O14: ENCODE sends the received frame as it was. -/
theorem reencodeRewritesSameHeader : Obligations.ReencodeRewritesSameHeader := by
  intro s t h herr hpad hsum
  refine ⟨_, encode_of_decoded h herr, rfl, fun i => ?_, ?_⟩
  · obtain ⟨-, -, rfl⟩ := decode_of_err_zero h herr
    refine (State.wbByte_complete _ _ _ i).trans (State.wbByte_reencoded hpad ?_ i)
    rw [State.encodeChecksum_eq, State.reencoding, State.frameToSend_issue, hsum]
  · rw [State.complete_wblen, State.writeFrame_wblen_toNat, State.reencoding_len]

/-! ## Nonzero padding -/

/-- Bytes that verify sum to a multiple of 65535 (41_checksum.md R152, R153). -/
theorem wordSum_mod_of_checksum_eq_zero {bs : List Byte} (h : checksum bs = 0) : wordSum bs % 65535 = 0 := by
  have hfold := fold_le (wordSum bs)
  have hmod := fold_mod (wordSum bs)
  have hsum := checksum_toNat bs
  rw [h, show (0 : Half).toNat = 0 from rfl] at hsum
  omega

/-- With a nonzero padding other than 0xFFFF, which alone adds 0 modulo 65535, the checksum ENCODE computes is not the one
received (41_checksum.md R159 (b)). -/
theorem State.reencoded_checksum_ne {s : State} (hvalid : checksum (frameBytes s.receivedFrame) = 0)
    (hpad : word2 s 22 ≠ 0) (hones : word2 s 22 ≠ 0xFFFF) : s.reencoding.encodeChecksum ≠ word2 s 20 := by
  intro heq
  have hne : (word2 s 22).toNat ≠ 0 := BitVec.toNat_ne.mp hpad
  have hne' : (word2 s 22).toNat ≠ 65535 := BitVec.toNat_ne.mp hones
  have hlt := (word2 s 22).isLt
  have hsum : wordSum (frameBytes s.receivedFrame) =
      wordSum (frameBytes (s.reencoding.frameToSend 0)) + (word2 s 20).toNat + (word2 s 22).toNat := by
    rw [wordSum_frameBytes, State.frameToSend_reencoding]
    rfl
  have hreceived := wordSum_mod_of_checksum_eq_zero hvalid
  have hsent := congrArg BitVec.toNat heq
  rw [State.encodeChecksum_eq, checksum_toNat] at hsent
  have hfold := fold_le (wordSum (frameBytes (s.reencoding.frameToSend 0)))
  have hmod := fold_mod (wordSum (frameBytes (s.reencoding.frameToSend 0)))
  omega

/-- The frame of vector T19d: that of T4 with the padding 0xFFFF, and the checksum of T4. -/
def onesPaddedFrame : State :=
  { State.reset with
    wb := Memory.writeBytes [] 0 [0, 0, 0, 1, 0, 0, 0, 1, 0, 0, 0, 0, 0, 0, 0, 0x64, 0, 0, 0, 0x19, 0x3B, 0x1E, 0xFF, 0xFF,
      0x61, 0x62, 0x63]
    wblen := 27 }

theorem onesPaddedFrame_reencoded : onesPaddedFrame.csum16 0 onesPaddedFrame.wblen.toNat = 0 ∧
    word2 onesPaddedFrame 22 = 0xFFFF ∧ onesPaddedFrame.reencoding.encodeChecksum = word2 onesPaddedFrame 20 := by decide

/-- Settles O15: what the padding adds to the sum, and the frame of T19d. -/
theorem nonzeroPaddingChangesChecksum : Obligations.NonzeroPaddingChangesChecksum := by
  refine ⟨fun s t u h herr hlen hvalid hpad hu => ?_, ?_⟩
  · cases (encode_of_decoded h herr).symm.trans hu
    obtain ⟨-, -, rfl⟩ := decode_of_err_zero h herr
    obtain ⟨-, -, -, -, -, -, hzero⟩ := s.reencoding.writeFrame_fields
    refine ⟨rfl, by rwa [word2_complete], fun hones => ?_⟩
    rw [State.csum16, hlen, State.wbBytes_eq_receivedFrame] at hvalid
    simpa [State.ofNat_memRead_two] using State.reencoded_checksum_ne hvalid hpad hones
  · obtain ⟨hvalid, hones, hsame⟩ := onesPaddedFrame_reencoded
    have hdecode : exec .decode onesPaddedFrame = .next (onesPaddedFrame.readFrame.complete .ok false) :=
      execDecode_of_frame (by decide) (by decide)
    refine ⟨_, _, _, hdecode, rfl, hvalid, hones, encode_of_decoded hdecode rfl, ?_⟩
    simpa [State.ofNat_memRead_two] using hsame

end Sys2Proof.Machine
end

section
/-! PROOFS, frame-codec family. DECODE and VERIFY in either order (40_frame_codec.md R127): VERIFY writes no operand of
DECODE, and DECODE none of VERIFY. -/

namespace Sys2Proof.Machine

open Sys2Proof.Claims

/-- The state with the registers that DECODE writes taken from `f`. -/
def State.withFieldsOf (s f : State) : State :=
  { s with
    seq := f.seq, ackno := f.ackno, tsHi := f.tsHi, tsLo := f.tsLo, len := f.len, flags := f.flags,
    cksum := f.cksum, pad := f.pad }

/-! An issue keeps nothing of the STATUS, PHASE and CMD before it but OVR (70_reset_and_hazards.md R217), so after another
command's issue and completion it differs only by that command's results. -/

theorem issue_after_verify {s t : State} {c : Word} (h : exec .verify (s.issue c) = .next t) (d : Word) :
    t.issue d = (s.issue d).setCsres t.csres := by
  rcases execVerify_cases h with ⟨-, rfl⟩ | ⟨-, rfl⟩ <;> rfl

theorem issue_after_decode {s t : State} {c : Word} (h : exec .decode (s.issue c) = .next t) (d : Word) :
    t.issue d = (s.issue d).withFieldsOf t := by
  rcases execDecode_cases h with ⟨-, rfl⟩ | ⟨-, -, rfl⟩ | ⟨-, -, -, rfl⟩ | ⟨-, -, rfl⟩
  case inr.inr.inr => rw [State.readFrame_eq]; rfl
  all_goals rfl

/-- DECODE does not read CSRES, and keeps it. -/
theorem decode_setCsres {s t : State} (h : exec .decode s = .next t) (v : Half) :
    exec .decode (s.setCsres v) = .next (t.setCsres v) := by
  obtain ⟨-, decodes⟩ := decodeReadsFrame
  cases (decodes s).symm.trans h
  rw [decodes]
  simp only [wireLen_setCsres, word4_setCsres, word2_setCsres, State.setCsres_cap, State.setCsres_wblen]
  split_ifs <;> rfl

/-- VERIFY does not read the registers that DECODE writes, and keeps them. -/
theorem verify_withFieldsOf {s t : State} (h : exec .verify s = .next t) (f : State) :
    exec .verify (s.withFieldsOf f) = .next (t.withFieldsOf f) := by
  have hsum (n : Nat) : (s.withFieldsOf f).csum16 0 n = s.csum16 0 n :=
    congrArg checksum (State.wbBytes_congr fun _ _ _ => rfl)
  rw [exec, execVerify, hsum]
  rcases execVerify_cases h with ⟨hlt, rfl⟩ | ⟨hle, rfl⟩
  · exact if_pos hlt
  · exact if_neg (Nat.not_lt_of_le hle)

/-- Settles O16: either order ends with the fields DECODE reads and the CSRES that VERIFY computes. -/
theorem decodeVerifyOrderFree : Obligations.DecodeVerifyOrderFree := by
  intro s a b c d ha hb hc hd
  rw [issue_after_decode ha] at hb
  rw [issue_after_verify hc] at hd
  cases (verify_withFieldsOf hc a).symm.trans hb
  cases (decode_setCsres ha c.csres).symm.trans hd
  obtain ⟨-, -, -, -, -, -, hc', -⟩ := commandFrames .verify _ _ hc
  obtain ⟨-, -, -, -, -, -, ha', -⟩ := commandFrames .decode _ _ ha
  obtain ⟨hcbyte, hclen⟩ := hc' nofun
  obtain ⟨habyte, halen⟩ := ha' nofun
  refine ⟨rfl, rfl, rfl, rfl, rfl, rfl, rfl, rfl, rfl, rfl, rfl, fun i => ?_, hclen.trans halen.symm⟩
  exact (hcbyte i).trans (habyte i).symm

end Sys2Proof.Machine
end

section
/-! PROOFS, checksum family. The generator's arithmetic: the fold's range and values, the end-around-carry loop, wide and
narrow accumulators, and the byte order of the words (41_checksum.md R152, R154, R160, R161). -/

namespace Sys2Proof.Machine

open Sys2Proof.Claims

/-! ## The fold -/

@[simp] theorem fold_eq_zero_iff {S : Nat} : fold S = 0 ↔ S = 0 := by unfold fold; split <;> omega

theorem fold_eq_ones_iff {S : Nat} : fold S = 65535 ↔ 0 < S ∧ S % 65535 = 0 := by unfold fold; split <;> omega

theorem fold_of_le {S : Nat} (h : S ≤ 65535) : fold S = S := by unfold fold; split <;> omega

/-- Settles O21: the value, the range, and the two ends of the range. -/
theorem foldRange : Obligations.FoldRange := fun S => ⟨fold_of_pos, fold_le S, fold_eq_zero_iff, fold_eq_ones_iff⟩

/-! ## The end-around-carry loop -/

/-- One round of the loop keeps the accumulator the fold of the words added so far. -/
theorem endAroundAdd_fold (S : Nat) {w : Nat} (h : w < 65536) : endAroundAdd (fold S) w = fold (S + w) := by
  unfold endAroundAdd fold
  split_ifs <;> omega

theorem foldl_endAroundAdd_fold {ws : List Nat} (h : ∀ w ∈ ws, w < 65536) (S : Nat) :
    ws.foldl endAroundAdd (fold S) = fold (S + ws.sum) := by
  induction ws generalizing S with
  | nil => rfl
  | cons w ws ih =>
    obtain ⟨hw, hws⟩ := List.forall_mem_cons.mp h
    rw [List.foldl_cons, endAroundAdd_fold S hw, ih hws, List.sum_cons, Nat.add_assoc]

theorem endAroundSum_eq_fold {ws : List Nat} (h : ∀ w ∈ ws, w < 65536) : endAroundSum ws = fold ws.sum := by
  rw [endAroundSum, ← fold_zero, foldl_endAroundAdd_fold h, Nat.zero_add]

/-! ## Folding a wide accumulator -/

/-- 65536 is 1 modulo 65535, so taking the upper half down keeps the fold. -/
theorem fold_foldOnce (S : Nat) : fold (foldOnce S) = fold S := by
  unfold foldOnce fold
  split_ifs <;> omega

theorem foldOnce_lt {S : Nat} (h : 65535 < S) : foldOnce S < S := by unfold foldOnce; omega

theorem exists_iterate_foldOnce (S : Nat) : ∃ k, foldOnce^[k] S ≤ 0xFFFF ∧ foldOnce^[k] S = fold S := by
  induction S using Nat.strong_induction_on with
  | _ S ih =>
    by_cases h : S ≤ 65535
    · exact ⟨0, h, (fold_of_le h).symm⟩
    · obtain ⟨k, hle, hfold⟩ := ih (foldOnce S) (foldOnce_lt (Nat.lt_of_not_le h))
      exact ⟨k + 1, hle, hfold.trans (fold_foldOnce S)⟩

/-- Settles O22: the loop's accumulator is the fold of the words added so far, and each fold of a wide one keeps its fold. -/
theorem endAroundCarryGivesFold : Obligations.EndAroundCarryGivesFold := by
  refine ⟨fun bs => endAroundSum_eq_fold fun _ => wordsOf_lt bs, fun bs k w hw => ?_, exists_iterate_foldOnce⟩
  have hword : w < 65536 := wordsOf_lt bs (List.mem_of_getElem? hw)
  rw [endAroundSum_eq_fold fun _ hv => wordsOf_lt bs (List.mem_of_mem_take hv)]
  have hacc := fold_le ((wordsOf bs).take k).sum
  omega

/-! ## Narrow accumulators -/

theorem wordSum_le (bs : List Byte) : wordSum bs ≤ 65535 * ((bs.length + 1) / 2) := by
  induction bs using wordsOf.induct with
  | case1 => simp
  | case2 b => have := b.isLt; simp only [wordSum_single, List.length_cons, List.length_nil]; omega
  | case3 b c r ih =>
    have := b.isLt; have := c.isLt
    simp only [wordSum_cons_cons, List.length_cons]; omega

/-- Two folds bring a 32-bit sum within 16 bits. -/
theorem foldOnce_foldOnce {S : Nat} (h : S < 2 ^ 32) : foldOnce (foldOnce S) = fold S := by
  have hle : foldOnce (foldOnce S) ≤ 65535 := by unfold foldOnce; omega
  rw [← fold_of_le hle, fold_foldOnce, fold_foldOnce]

/-- Settles O23: ⌈n/2⌉ words of at most 65535 each. -/
theorem narrowAccumulatorsAgree : Obligations.NarrowAccumulatorsAgree := by
  intro bs
  have hsum := wordSum_le bs
  refine ⟨fun hlen => ?_, fun hlen => by omega⟩
  have hlt : wordSum bs < 2 ^ 32 := by omega
  rw [Nat.mod_eq_of_lt hlt]
  exact ⟨hlt, foldOnce_foldOnce hlt⟩

/-! ## The byte order of the words -/

/-- Swapping a word's bytes multiplies it by 256 modulo 65535. -/
theorem littleWords_sum_mod (bs : List Byte) : (littleWords bs).sum % 65535 = 256 * wordSum bs % 65535 := by
  induction bs using littleWords.induct with
  | case1 => rfl
  | case2 b => simp only [littleWords, List.sum_singleton, wordSum_single]; omega
  | case3 b c r ih => simp only [littleWords, List.sum_cons, wordSum_cons_cons]; omega

theorem littleWords_sum_eq_zero_iff (bs : List Byte) : (littleWords bs).sum = 0 ↔ wordSum bs = 0 := by
  induction bs using littleWords.induct with
  | case1 => rfl
  | case2 b => simp only [littleWords, List.sum_singleton, wordSum_single]; omega
  | case3 b c r ih => simp only [littleWords, List.sum_cons, wordSum_cons_cons]; omega

/-- The fold of the little-endian words is the byte swap of the fold. -/
theorem fold_littleWords (bs : List Byte) :
    fold (littleWords bs).sum = fold (wordSum bs) % 256 * 256 + fold (wordSum bs) / 256 := by
  have hmod := littleWords_sum_mod bs
  have hzero := littleWords_sum_eq_zero_iff bs
  generalize (littleWords bs).sum = T, wordSum bs = S at *
  have hS := fold_mod S
  have hT := fold_mod T
  have hleS := fold_le S
  have hleT := fold_le T
  have hposS := fold_eq_zero_iff (S := S)
  have hposT := fold_eq_zero_iff (S := T)
  omega

/-- The complement commutes with the byte swap. -/
theorem littleChecksum_eq_swap (bs : List Byte) :
    littleChecksum bs = (checksum bs).toNat % 256 * 256 + (checksum bs).toNat / 256 := by
  have hle := fold_le (wordSum bs)
  rw [littleChecksum, fold_littleWords, checksum_toNat]
  omega

theorem littleChecksum_bytes (bs : List Byte) :
    littleChecksum bs % 256 = (checksum bs).toNat / 256 ∧ littleChecksum bs / 256 = (checksum bs).toNat % 256 := by
  have hlt := (checksum bs).isLt
  rw [littleChecksum_eq_swap]
  constructor <;> omega

/-- Settles O24: a checksum whose bytes are swapped is stored with its bytes swapped. -/
theorem checksumBytesFreeOfWordOrder : Obligations.ChecksumBytesFreeOfWordOrder := by
  intro bs
  obtain ⟨hlower, hupper⟩ := littleChecksum_bytes bs
  have hmod : BitVec.ofNat 8 ((checksum bs).toNat % 256) = BitVec.ofNat 8 (checksum bs).toNat :=
    BitVec.eq_of_toNat_eq (by simp)
  rw [hlower, hupper, hmod]
  simp only [beBytes, Nat.pow_one, Nat.pow_zero, Nat.div_one]

end Sys2Proof.Machine
end

section
/-! PROOFS, checksum family. What a change of the bytes does to their sum, and the changes that the checksum cannot tell
apart (41_checksum.md R158, R159). -/

namespace Sys2Proof.Machine

open Sys2Proof.Claims

/-! ## One bit inverted -/

theorem xor_eq_add_of_and_eq_zero {n : Nat} {x y : BitVec n} (h : x &&& y = 0#n) : x ^^^ y = x + y := by
  rw [BitVec.add_eq_or_of_and_eq_zero _ _ h]
  ext i hi
  have hbit : (x &&& y)[i] = false := by rw [h, BitVec.getElem_zero]
  rw [BitVec.getElem_and] at hbit
  rw [BitVec.getElem_xor, BitVec.getElem_or]
  revert hbit
  cases x[i] <;> simp

theorem toNat_flip_of_false {n j : Nat} {x : BitVec n} (hj : j < n) (h : x.getLsbD j = false) :
    (x ^^^ (1#n <<< j)).toNat = x.toNat + 2 ^ j := by
  have hclear : x &&& (1#n <<< j) = 0#n := by rw [← BitVec.twoPow_eq, BitVec.and_twoPow, h]; rfl
  rw [xor_eq_add_of_and_eq_zero hclear, BitVec.toNat_add_of_and_eq_zero hclear, ← BitVec.twoPow_eq,
    BitVec.toNat_twoPow_of_lt hj]

theorem toNat_flip_of_true {n j : Nat} {x : BitVec n} (hj : j < n) (h : x.getLsbD j = true) :
    (x ^^^ (1#n <<< j)).toNat + 2 ^ j = x.toNat := by
  have hclear : (x ^^^ (1#n <<< j)).getLsbD j = false := by simp [h, hj]
  rw [← toNat_flip_of_false hj hclear, BitVec.xor_assoc, BitVec.xor_self, BitVec.xor_zero]

/-! ## One byte changed -/

/-- What the byte at an offset counts for in its word (41_checksum.md R150). -/
def byteWeight (i : Nat) : Nat := if i % 2 = 0 then 256 else 1

@[simp] theorem byteWeight_zero : byteWeight 0 = 256 := rfl
@[simp] theorem byteWeight_one : byteWeight 1 = 1 := rfl
@[simp] theorem byteWeight_add_two (i : Nat) : byteWeight (i + 2) = byteWeight i := by simp [byteWeight]

theorem byteWeight_mul_two_pow (i j : Nat) : byteWeight i * 2 ^ j = 2 ^ (if i % 2 = 0 then 8 + j else j) := by
  unfold byteWeight
  split <;> simp [Nat.pow_add]

theorem byteWeight_mul_two_pow_bounds (i : Nat) {j : Nat} (hj : j < 8) :
    0 < byteWeight i * 2 ^ j ∧ byteWeight i * 2 ^ j < 65535 := by
  obtain ⟨hpos, hle⟩ : 0 < byteWeight i ∧ byteWeight i ≤ 256 := by unfold byteWeight; split <;> decide
  have hpow : 2 ^ j ≤ 2 ^ 7 := Nat.pow_le_pow_right (by decide) (Nat.le_of_lt_succ hj)
  exact ⟨Nat.mul_pos hpos (Nat.two_pow_pos j), (Nat.mul_le_mul hle hpow).trans_lt (by decide)⟩

theorem wordSum_set {bs : List Byte} {i : Nat} {x : Byte} (h : bs[i]? = some x) (y : Byte) :
    wordSum (bs.set i y) + byteWeight i * x.toNat = wordSum bs + byteWeight i * y.toNat := by
  induction bs using wordsOf.induct generalizing i with
  | case1 => cases h
  | case2 b =>
    match i with
    | 0 =>
      cases h
      rw [List.set_cons_zero, wordSum_single, wordSum_single, byteWeight_zero]; omega
    | i + 1 => cases h
  | case3 b c r ih =>
    match i with
    | 0 =>
      cases h
      rw [List.set_cons_zero, wordSum_cons_cons, wordSum_cons_cons, byteWeight_zero]; omega
    | 1 =>
      cases h
      rw [List.set_cons_succ, List.set_cons_zero, wordSum_cons_cons, wordSum_cons_cons, byteWeight_one]; omega
    | i + 2 =>
      have hrest := ih h
      rw [List.set_cons_succ, List.set_cons_succ, wordSum_cons_cons, wordSum_cons_cons, byteWeight_add_two]; omega

section
variable {bs : List Byte} {i j : Nat} {x : Byte}

theorem wordSum_flip_of_false (h : bs[i]? = some x) (hj : j < 8) (hbit : x.getLsbD j = false) :
    wordSum (bs.set i (x ^^^ (1#8 <<< j))) = wordSum bs + byteWeight i * 2 ^ j := by
  have hset := wordSum_set h (x ^^^ (1#8 <<< j))
  rw [toNat_flip_of_false hj hbit, Nat.mul_add] at hset
  omega

theorem wordSum_flip_of_true (h : bs[i]? = some x) (hj : j < 8) (hbit : x.getLsbD j = true) :
    wordSum (bs.set i (x ^^^ (1#8 <<< j))) + byteWeight i * 2 ^ j = wordSum bs := by
  have hset := wordSum_set h (x ^^^ (1#8 <<< j))
  rw [← toNat_flip_of_true hj hbit, Nat.mul_add] at hset
  omega

end

/-! ## Undetected changes -/

theorem checksum_eq_of_wordSum_eq {as bs : List Byte} (h : wordSum as = wordSum bs) : checksum as = checksum bs := by
  rw [checksum, h, checksum]

theorem checksum_eq_of_mod_eq {as bs : List Byte} (has : 0 < wordSum as) (hbs : 0 < wordSum bs)
    (h : wordSum as % 65535 = wordSum bs % 65535) : checksum as = checksum bs := by
  rw [checksum, fold_eq_of_mod_eq has hbs h, checksum]

/-- Two flips of one significance, one each way, cancel in the sum. -/
theorem wordSum_opposite_flips {bs : List Byte} {i j k : Nat} {x y : Byte} (hij : i ≠ j) (hpar : i % 2 = j % 2)
    (hk : k < 8) (hx : bs[i]? = some x) (hy : bs[j]? = some y) (hxk : x.getLsbD k = false)
    (hyk : y.getLsbD k = true) :
    wordSum ((bs.set i (x ^^^ (1#8 <<< k))).set j (y ^^^ (1#8 <<< k))) = wordSum bs := by
  have hup := wordSum_flip_of_false hx hk hxk
  have hy' : (bs.set i (x ^^^ (1#8 <<< k)))[j]? = some y := by rw [List.getElem?_set_ne hij, hy]
  have hdown := wordSum_flip_of_true hy' hk hyk
  have hweight : byteWeight i = byteWeight j := by rw [byteWeight, hpar, byteWeight]
  rw [hup, hweight] at hdown
  omega

/-- A word at an even offset counts for itself. -/
theorem wordSum_append_word {as : List Byte} (h : as.length % 2 = 0) (b c : Byte) (bs : List Byte) :
    wordSum (as ++ [b, c] ++ bs) = wordSum as + (b.toNat * 256 + c.toNat) + wordSum bs := by
  rw [List.append_assoc, wordSum_append _ h, List.cons_append, List.cons_append, List.nil_append, wordSum_cons_cons,
    ← Nat.add_assoc]

@[simp] theorem wordSum_append_zero (bs : List Byte) : wordSum (bs ++ [0]) = wordSum bs := by
  induction bs using wordsOf.induct with
  | case1 => rfl
  | case2 b => simp
  | case3 b c r ih => rw [List.cons_append, List.cons_append, wordSum_cons_cons, ih, wordSum_cons_cons]

/-- Zero bytes at the end add nothing, whether they start a word or fill one. -/
theorem wordSum_append_zeros (bs : List Byte) (k : Nat) : wordSum (bs ++ List.replicate k 0) = wordSum bs := by
  induction k with
  | zero => simp
  | succ k ih => rw [List.replicate_succ', ← List.append_assoc, wordSum_append_zero, ih]

/-- Settles O27: what each change does to the sum. -/
theorem undetectedChanges : Obligations.UndetectedChanges := by
  refine ⟨fun _ _ => checksum_eq_of_mod_eq, ?flips, ?ones, ?reordered, ?zeros⟩
  case flips =>
    intro bs i j k x y hij hpar hk hx hy hxk hyk
    exact checksum_eq_of_wordSum_eq (wordSum_opposite_flips hij hpar hk hx hy hxk hyk)
  case ones =>
    intro as bs heven hpos
    have hones : wordSum (as ++ [0xFF, 0xFF] ++ bs) = wordSum (as ++ [0x00, 0x00] ++ bs) + 65535 := by
      simp only [wordSum_append_word heven, show (0xFF : Byte).toNat = 255 from rfl, show (0x00 : Byte).toNat = 0 from rfl]
      omega
    exact checksum_eq_of_mod_eq (by omega) hpos (by omega)
  case reordered => exact fun as bs hperm => checksum_eq_of_wordSum_eq hperm.sum_eq
  case zeros => exact fun bs k => checksum_eq_of_wordSum_eq (wordSum_append_zeros bs k)

end Sys2Proof.Machine
end

section
/-! PROOFS, checksum family. CSUM and VERIFY, each as one equation (41_checksum.md R155, R156), and what VERIFY says of a
frame that ENCODE wrote and of a buffer with one bit inverted (R157, R158, R162). -/

namespace Sys2Proof.Machine

open Sys2Proof.Claims

/-! ## CSUM and VERIFY -/

/-- Settles O18: the check of WBLEN, then the rule's checksum. -/
theorem csumComputesChecksum : Obligations.CsumComputesChecksum := by
  refine ⟨rfl, fun s => ?_⟩
  rw [exec, execCsum, State.csum16_eq_ruleChecksum, State.wbCap]
  split_ifs <;> rfl

/-- Settles O19: the check of WBLEN, then the rule's checksum and whether it is zero. -/
theorem verifyChecksBuffer : Obligations.VerifyChecksBuffer := by
  refine ⟨rfl, fun s => ?_⟩
  rw [exec, execVerify, State.csum16_eq_ruleChecksum, State.wbCap]
  split_ifs <;> rfl

theorem execVerify_of_fits {s : State} (h : s.wblen.toNat ≤ s.cap.toNat) : exec .verify s =
    .next ((s.setCsres (s.csum16 0 s.wblen.toNat)).complete .ok (s.csum16 0 s.wblen.toNat == 0)) :=
  if_neg (Nat.not_lt_of_le h)

/-! ## The frame ENCODE writes -/

theorem checksum_eq_zero_iff {bs : List Byte} : checksum bs = 0 ↔ fold (wordSum bs) = 65535 := by
  have hle := fold_le (wordSum bs)
  rw [← BitVec.toNat_inj, checksum_toNat, show (0 : Half).toNat = 0 from rfl]
  omega

/-- Settles O10: the two bytes of the checksum field hold the computed checksum, zero or not. -/
theorem noZeroSubstitution : Obligations.NoZeroSubstitution := by
  intro s hroom hones
  have hsum : s.encodeChecksum = 0 := by rw [State.encodeChecksum_eq, checksum_eq_zero_iff.mpr hones]
  obtain ⟨-, -, -, -, -, hfield, -⟩ := s.writeFrame_fields
  rw [hsum] at hfield
  refine ⟨_, execEncode_of_room hroom, ?_, ?_, ?_⟩
  · simpa using hsum
  · rw [State.wbByte_complete, wbByte_eq_of_word2, hfield]; rfl
  · rw [State.wbByte_complete, wbByte_add_one_eq_of_word2 _ 20, hfield]; rfl

/-- A sum and the complement of its fold fold to all ones (41_checksum.md R157). -/
theorem fold_add_complement (S : Nat) : fold (S + (65535 - fold S)) = 65535 := by
  have hle := fold_le S
  have hmod := fold_mod S
  have hzero := fold_eq_zero_iff (S := S)
  rw [fold_eq_ones_iff]
  omega

/-- The checksum field counts for itself in the sum of a frame to send. -/
theorem State.wordSum_frameToSend (s : State) (k : Half) :
    wordSum (frameBytes (s.frameToSend k)) = wordSum (frameBytes (s.frameToSend 0)) + k.toNat := by
  have hzeroed : { s.frameToSend k with checksum := 0, padding := 0 } = s.frameToSend 0 := rfl
  have hsum : (s.frameToSend k).checksum = k := rfl
  have hpad : (s.frameToSend k).padding.toNat = 0 := rfl
  rw [wordSum_frameBytes, hzeroed, hsum, hpad, Nat.add_zero]

/-- The frame that ENCODE sends verifies. -/
theorem State.checksum_frameToSend (s : State) : checksum (frameBytes (s.frameToSend s.encodeChecksum)) = 0 := by
  rw [checksum_eq_zero_iff, State.wordSum_frameToSend, State.encodeChecksum_eq, checksum_toNat, fold_add_complement]

theorem State.csum16_writeFrame (s : State) : s.writeFrame.csum16 0 s.writeFrame.wblen.toNat = 0 := by
  rw [State.csum16, State.writeFrame_wblen_toNat, State.wbBytes_writeFrame, State.checksum_frameToSend]

@[simp] theorem State.csum16_issue (s : State) (c : Word) (a n : Nat) : (s.issue c).csum16 a n = s.csum16 a n := by
  simp [State.csum16]

@[simp] theorem State.csum16_complete (s : State) (e : Err) (v : Bool) (a n : Nat) :
    (s.complete e v).csum16 a n = s.csum16 a n := by simp [State.csum16]

/-- Settles O25: ENCODE leaves a buffer that sums to 0x0000 up to the WBLEN it wrote. -/
theorem encodeThenVerifyIsValid : Obligations.EncodeThenVerifyIsValid := by
  intro s t hroom ht
  cases (execEncode_of_room hroom).symm.trans ht
  have hvalid := s.csum16_writeFrame
  have hfits : ((s.writeFrame.complete .ok false).issue 3).wblen.toNat ≤
      ((s.writeFrame.complete .ok false).issue 3).cap.toNat := by
    rw [State.issue_wblen, State.complete_wblen, State.writeFrame_wblen_toNat]
    simpa using hroom
  refine ⟨_, execVerify_of_fits hfits, ?csres, ?valid, rfl⟩
  all_goals
    rw [State.csum16_issue, State.csum16_complete, State.issue_wblen, State.complete_wblen, hvalid]
    rfl

/-! ## One bit of a valid buffer inverted -/

theorem State.wbBytes_eq_set {s r : State} {a i n : Nat} {x : Byte}
    (hother : ∀ k, k ≠ i → r.wbByte (a + k) = s.wbByte (a + k)) (hat : r.wbByte (a + i) = x) :
    r.wbBytes a n = (s.wbBytes a n).set i x := by
  apply List.ext_getElem?
  intro k
  by_cases hk : k < n
  · rw [State.wbBytes_getElem? _ hk]
    by_cases hki : k = i
    · rw [← hki, List.getElem?_set_self (by simpa using hk), ← hat, hki]
    · rw [List.getElem?_set_ne (Ne.symm hki), State.wbBytes_getElem? _ hk, hother k hki]
  · rw [List.getElem?_eq_none (by simpa using hk), List.getElem?_eq_none (by simpa using hk)]

/-- The checksum of a valid buffer after one bit of it is inverted. -/
theorem checksum_flip {bs : List Byte} {i j : Nat} {x : Byte} (hvalid : checksum bs = 0) (hx : bs[i]? = some x)
    (hj : j < 8) : (checksum (bs.set i (x ^^^ (1#8 <<< j)))).toNat =
    if x.getLsbD j then byteWeight i * 2 ^ j else 0xFFFF - byteWeight i * 2 ^ j := by
  obtain ⟨hpos, hmod⟩ := fold_eq_ones_iff.mp (checksum_eq_zero_iff.mp hvalid)
  obtain ⟨hlo, hhi⟩ := byteWeight_mul_two_pow_bounds i hj
  rw [checksum_toNat]
  split
  next hbit =>
    have hsum := wordSum_flip_of_true hx hj hbit
    rw [fold_of_pos (by omega)]
    omega
  next hbit =>
    rw [wordSum_flip_of_false hx hj (Bool.not_eq_true _ ▸ hbit), fold_of_pos (by omega)]
    omega

theorem checksum_flip_ne_zero {bs : List Byte} {i j : Nat} {x : Byte} (hvalid : checksum bs = 0) (hx : bs[i]? = some x)
    (hj : j < 8) : checksum (bs.set i (x ^^^ (1#8 <<< j))) ≠ 0 := by
  obtain ⟨hlo, hhi⟩ := byteWeight_mul_two_pow_bounds i hj
  rw [BitVec.toNat_ne, checksum_flip hvalid hx hj, show (0 : Half).toNat = 0 from rfl]
  split <;> omega

/-- Settles O26: VERIFY sums the changed bytes. -/
theorem singleBitFlipDetected : Obligations.SingleBitFlipDetected := by
  intro s r t i j hcap hvalid hi hj hrcap hrlen hother hat ht
  rw [← hrcap, ← hrlen] at hcap
  cases (execVerify_of_fits hcap).symm.trans ht
  have hx : (s.wbBytes 0 s.wblen.toNat)[i]? = some (s.wbByte i) := by simpa using s.wbBytes_getElem? (a := 0) hi
  have hbytes : r.wbBytes 0 r.wblen.toNat = (s.wbBytes 0 s.wblen.toNat).set i (s.wbByte i ^^^ (1#8 <<< j)) := by
    rw [hrlen]
    exact State.wbBytes_eq_set (by simpa using hother) (by simpa using hat)
  have hne : r.csum16 0 r.wblen.toNat ≠ 0 := by
    rw [State.csum16, hbytes]
    exact checksum_flip_ne_zero hvalid hx hj
  have hflip := checksum_flip hvalid hx hj
  rw [← hbytes, byteWeight_mul_two_pow] at hflip
  exact ⟨by simpa using hne, rfl, hflip⟩

end Sys2Proof.Machine
end

section
/-! PROOFS, exceptions family. How a command, or a reserved word, completes: with which code, and what a failure leaves
(60_exceptions.md R180 to R187). -/

namespace Sys2Proof.Machine

open Sys2Proof.Claims

/-! ## Every command -/

/-- A command that ends with an error changes STATUS and PHASE only (60_exceptions.md R181). -/
theorem exec_of_err_ne_zero {i : Instr} {s t : State} (h : exec i s = .next t) (herr : t.status.err ≠ 0) :
    t = failed s t.status.err := by
  rcases exec_cases h with ⟨v, -, rfl⟩ | ⟨e, -, -, rfl⟩
  · exact absurd rfl herr
  · exact s.raiseErr_eq_failed e

/-- Settles O29: the failures of the commands, and the ILLEGAL_CMD of a rejected word. -/
theorem failedCommandWritesOnlyStatus : Obligations.FailedCommandWritesOnlyStatus := by
  refine ⟨fun i s t => exec_of_err_ne_zero, fun s t c hp h herr => ?_⟩
  rcases codecTurn_cases h with ⟨hidle, -⟩ | ⟨_, i, -, -, he⟩ | ⟨_, r, -, -, rfl⟩
  · cases hp.symm.trans hidle
  · exact exec_of_err_ne_zero he herr
  · exact s.raiseErr_eq_failed .illegalCmd

/-- Settles O28: with or without error, a completion sets PHASE and STATUS alike but for the code and VALID. -/
theorem everyCommandCompletes : Obligations.EveryCommandCompletes := by
  intro i s
  obtain ⟨t, ht⟩ := exec_completes i s
  refine ⟨t, ht, ?_⟩
  rcases exec_cases ht with ⟨v, -, rfl⟩ | ⟨e, -, -, rfl⟩
  · exact ⟨rfl, rfl, Err.code_le .ok, by simp⟩
  · exact ⟨rfl, rfl, e.code_le, rfl⟩

/-! ## Reserved words -/

/-- The reserved words by their fields (30_encoding.md R107). -/
theorem exists_decode_error_of_reserved {c : Word}
    (h : c.extractLsb' 3 29 ≠ 0 ∨ c.extractLsb' 0 3 = 0b000 ∨ c.extractLsb' 0 3 = 0b101 ∨ c.extractLsb' 0 3 = 0b110 ∨
      c.extractLsb' 0 3 = 0b111) : ∃ r, decode c = .error r := by
  obtain ⟨reservedBits, map, -⟩ := opcodeMapSelects
  by_cases hr : c.extractLsb' 3 29 = 0
  · obtain ⟨-, -, -, -, reservedOpcode⟩ := map c hr
    exact reservedOpcode (h.resolve_left (not_not_intro hr))
  · exact reservedBits c hr

/-- Settles O5: the write of CMD is the issue of the word, which the decoder then rejects. -/
theorem reservedWordCompletesIllegal : Obligations.ReservedWordCompletesIllegal := by
  intro s c idle hc
  obtain ⟨r, hr⟩ := exists_decode_error_of_reserved hc
  exact ⟨s.issue c, State.busWrite32_offset_of_idle idle c .cmd, State.busy_of_busy rfl, rfl, rfl,
    codecTurn_of_rejected (s := s.issue c) rfl hr⟩

/-! ## The bounds of the buffer -/

/-- Settles O12: within WB_CAP, DECODE's two checks in their order. -/
theorem malformedFrameExactly : Obligations.MalformedFrameExactly := by
  intro s hcap
  obtain ⟨-, decodes⟩ := decodeReadsFrame
  have hdec := decodes s
  rw [if_neg (Nat.not_lt_of_le hcap)] at hdec
  refine ⟨_, hdec, ?_⟩
  split_ifs with hheader hpayload
  · exact ⟨iff_of_true rfl hheader, iff_of_false nofun (by omega), fun _ => rfl⟩
  · exact ⟨iff_of_false nofun hheader, iff_of_true rfl ⟨by omega, hpayload⟩, fun _ => rfl⟩
  · exact ⟨iff_of_false nofun hheader, iff_of_false nofun fun h => hpayload h.2, nofun⟩

/-- Settles O7: there is room for the frame, or there is none. -/
theorem lenOverCapExactly : Obligations.LenOverCapExactly := by
  intro s
  by_cases hno : s.cap.toNat < 24 + s.len.toNat
  · exact ⟨_, execEncode_of_no_room hno, iff_of_true rfl hno, fun _ => rfl⟩
  · exact ⟨_, execEncode_of_room (Nat.le_of_not_lt hno), iff_of_false nofun hno, nofun⟩

/-- Code 2 is reported for a WBLEN over WB_CAP, by a command that reads WBLEN (60_exceptions.md R184). -/
theorem exec_of_err_wblenOverCap {i : Instr} {s t : State} (h : exec i s = .next t) (herr : t.status.err = 2) :
    i ≠ .encode ∧ s.cap.toNat < s.wblen.toNat := by
  cases i
  case encode => rcases execEncode_cases h with ⟨-, rfl⟩ | ⟨-, rfl⟩ <;> cases herr
  case decode =>
    rcases execDecode_cases h with ⟨hover, -⟩ | ⟨-, -, rfl⟩ | ⟨-, -, -, rfl⟩ | ⟨-, -, rfl⟩
    · exact ⟨nofun, hover⟩
    all_goals cases herr
  case verify =>
    rcases execVerify_cases h with ⟨hover, -⟩ | ⟨-, rfl⟩
    · exact ⟨nofun, hover⟩
    · cases herr
  case csum =>
    rcases execCsum_cases h with ⟨hover, -⟩ | ⟨-, rfl⟩
    · exact ⟨nofun, hover⟩
    · cases herr

/-- Settles O20: the three commands check WBLEN first, and no other check reports code 2. -/
theorem wblenOverCapFails : Obligations.WblenOverCapFails := by
  exact ⟨fun s hover => ⟨if_pos hover, if_pos hover, if_pos hover⟩, fun s t i => exec_of_err_wblenOverCap⟩

end Sys2Proof.Machine
end

section
/-! PROOFS, reset family. The CODEC's turn by what is in progress (70_reset_and_hazards.md R217 to R219), and the end of a
run (R227). -/

namespace Sys2Proof.Machine

/-! ## The CODEC's turn -/

theorem codecTurn_of_idle {s : State} (hp : s.phase = .idle) : codecTurn s = .next s := by
  simp only [codecTurn, hp]

theorem codecTurn_of_command {s : State} {c : Word} {i : Instr} (hp : s.phase = .busy c) (hi : decode c = .ok i) :
    codecTurn s = exec i s := by
  simp only [codecTurn, hp, hi]

/-- Settles O4: the CODEC's turn, of a command in progress, of one just placed, and with none. -/
theorem stepRunsDecodedCommand : Obligations.StepRunsDecodedCommand := by
  refine ⟨fun s c i hp hn hi => ?_, fun s i => ?_, fun s hp hn => ?_⟩
  · rw [step_of_codec hn]
    exact codecTurn_of_command (s := s.popTurn) hp hi
  · have hword : BitVec.ofNat 32 ((encode i).toNat % 2 ^ 32) = encode i := by
      rw [Nat.mod_eq_of_lt (encode i).isLt, BitVec.ofNat_toNat, BitVec.setWidth_eq]
    rw [State.withFetchWord, hword, step_fetchNow]
    exact codecTurn_of_command rfl (decode_encode i)
  · rw [step_of_codec hn]
    exact codecTurn_of_idle (s := s.popTurn) hp

/-- The CODEC's turn completes any word in progress, and leaves OVR, CMD, the host and the schedule. -/
theorem codecTurn_completes_of_busy {s : State} {c : Word} (hp : s.phase = .busy c) : ∃ t, codecTurn s = .next t ∧
    t.phase = .idle ∧ t.status.done = true ∧ t.status.ovr = s.status.ovr ∧ t.cmd = s.cmd ∧ t.host = s.host ∧
    t.turns = s.turns := by
  cases hd : decode c with
  | ok i =>
    obtain ⟨t, ht, hidle, hdone, -⟩ := everyCommandCompletes i s
    obtain ⟨-, hcmd, hhost, hturns, hovr, -⟩ := commandFrames i s t ht
    exact ⟨t, (codecTurn_of_command hp hd).trans ht, hidle, hdone, hovr, hcmd, hhost, hturns⟩
  | error r => exact ⟨_, codecTurn_of_rejected hp hd, rfl, rfl, rfl, rfl, rfl, rfl⟩

/-- Settles O54: the completion, on the state with the CODEC's turn taken off. -/
theorem codecStepCompletes : Obligations.CodecStepCompletes := by
  intro s c hp hn
  rw [step_of_codec hn]
  exact codecTurn_completes_of_busy (s := s.popTurn) hp

/-! ## Waiting for a completion -/

theorem State.nextTurn_of_cons {s : State} {x : Turn} {r : List Turn} (h : s.turns = x :: r) : s.nextTurn = x := by
  simp only [State.nextTurn, h]

theorem State.nextTurn_of_nil_of_busy {s : State} (h : s.turns = []) (hb : s.busy = true) : s.nextTurn = .codec := by
  simp only [State.nextTurn, h, hb, if_true]

/-- A host at HALT, or at POLL while busy, changes nothing (30_encoding.md R108). -/
theorem hostTurn_of_waiting {s : State} (hb : s.busy = true) (hw : s.hostOp = .halt ∨ ∃ n, s.hostOp = .poll n) :
    hostTurn s = .next s := by
  obtain ⟨poll, -, -, -, halt⟩ := pollBranchHalt
  rcases hw with hop | ⟨n, hop⟩
  · exact halt s hop
  · exact poll s n hop hb

/-- A run's first step. -/
theorem run_succ_of_step {M : Host.Core} {s t : M.State} (h : M.step s = .next t) (k : Nat) :
    M.run (k + 1) s = M.run k t := by
  simp only [Host.Core.run, h]

/-- Settles O55, by induction on the schedule: each turn of the waiting host only takes itself off, and at the schedule's
end the CODEC moves (notes/assumptions/5.md). -/
theorem commandEventuallyCompletes : Obligations.CommandEventuallyCompletes := by
  intro s c hp hhosts hw
  have hb : s.busy = true := State.busy_of_busy hp
  induction hturns : s.turns generalizing s with
  | nil =>
    obtain ⟨t, ht, hidle, hdone, -, -, hhost, -⟩ := codecStepCompletes s c hp (State.nextTurn_of_nil_of_busy hturns hb)
    exact ⟨t, run_succ_of_step (M := core) ht 0, hidle, hdone, hhost⟩
  | cons x r ih =>
    have hnext : s.nextTurn = .host := (State.nextTurn_of_cons hturns).trans (hhosts x (by simp [hturns]))
    have hstep : step s = .next s.popTurn := (step_of_host hnext).trans (hostTurn_of_waiting hb hw)
    have hrest : s.popTurn.turns = r := by simp [hturns]
    obtain ⟨t, hrun, hdone⟩ := ih s.popTurn hp (fun y hy => hhosts y (List.mem_of_mem_tail hy)) hw hb hrest
    exact ⟨t, (run_succ_of_step (M := core) hstep _).trans hrun, hdone⟩

/-! ## The end of a run -/

theorem State.runEnded_iff {s : State} : s.runEnded = true ↔ s.hostOp = .halt ∧ s.phase = .idle := by
  simp [State.runEnded, State.not_busy_iff]

/-- Settles O46: at HALT the host's turn changes nothing, and with PHASE idle the CODEC's changes nothing. -/
theorem endOfRun : Obligations.EndOfRun := by
  refine ⟨fun s => State.runEnded_iff, fun s hend hn => ?_⟩
  obtain ⟨hop, hp⟩ := State.runEnded_iff.mp hend
  obtain ⟨-, -, -, -, halt⟩ := pollBranchHalt
  cases hturn : s.nextTurn with
  | host => exact (step_of_host hturn).trans (halt s.popTurn hop)
  | codec => exact (step_of_codec hturn).trans (codecTurn_of_idle (s := s.popTurn) hp)
  | powerOn => exact absurd hturn hn

end Sys2Proof.Machine
end

section
/-! PROOFS, reset family. The issue of a command (70_reset_and_hazards.md R217) and the two resets (R211 to R213). -/

namespace Sys2Proof.Machine

/-- Settles O39: the write of CMD is the issue of the word. -/
theorem cmdWriteIssues : Obligations.CmdWriteIssues := by
  intro s c hp
  exact ⟨s.issue c, State.busWrite32_offset_of_idle (State.busy_of_idle hp) c .cmd, State.busy_of_busy rfl, rfl⟩

/-- Settles O41: the power-on reset's own laws, on the state with that turn taken off. -/
theorem powerOnResetEffect : Obligations.PowerOnResetEffect := by
  intro s hn
  let p := s.popTurn
  exact ⟨_, step_of_powerOn hn, p.powerOnReset_seq, p.powerOnReset_ackno, p.powerOnReset_tsHi, p.powerOnReset_tsLo,
    p.powerOnReset_len, p.powerOnReset_flags, p.powerOnReset_cksum, p.powerOnReset_pad, p.powerOnReset_csres,
    p.powerOnReset_wblen, p.powerOnReset_cmd, p.powerOnReset_cap, p.powerOnReset_phase,
    State.statusWord_of_cleared p.powerOnReset_status p.powerOnReset_phase, p.wbByte_powerOnReset, p.powerOnReset_draws⟩

/-- A soft reset that abandons an ENCODE draws the header and keeps the bytes from 24 on. -/
theorem State.wbByte_softReset_of_encode {s : State} (h : s.phase = .busy (encode .encode)) :
    (∀ i, i < 24 → s.softReset.wbByte i = Config.freeByte s.draws i) ∧
      ∀ i, 24 ≤ i → s.softReset.wbByte i = s.wbByte i := by
  have he : s.encodeInProgress = true := State.encodeInProgress_iff.mpr h
  exact ⟨fun i hi => by rw [State.wbByte_softReset, if_pos ⟨he, hi⟩],
    fun i hi => by rw [State.wbByte_softReset, if_neg fun ⟨_, hlt⟩ => Nat.not_lt_of_le hi hlt]⟩

/-- A soft reset that abandons no ENCODE keeps WB. -/
theorem State.wbByte_softReset_of_ne_encode {s : State} (h : s.phase ≠ .busy (encode .encode)) (i : Nat) :
    s.softReset.wbByte i = s.wbByte i := by
  rw [State.wbByte_softReset, if_neg fun ⟨he, _⟩ => h (State.encodeInProgress_iff.mp he)]

/-- Settles O40: CTRL acts at any time, and its write is the soft reset or nothing. -/
theorem softResetEffect : Obligations.SoftResetEffect := by
  intro s v
  have write : s.busWrite32 0x00 v = some (s.writeReg v .ctrl) := State.busWrite32_offset (r := .ctrl) (fun _ => rfl) v
  rcases s.writeReg_ctrl v with ⟨hv, hw⟩ | ⟨hv, hw⟩ <;> rw [write, hw, hv]
  · refine ⟨fun _ => ⟨s.softReset, rfl, ?_⟩, nofun⟩
    exact ⟨s.softReset_seq, s.softReset_ackno, s.softReset_tsHi, s.softReset_tsLo, s.softReset_len, s.softReset_flags,
      s.softReset_cksum, s.softReset_pad, s.softReset_csres, s.softReset_wblen, s.softReset_cmd, s.softReset_cap,
      s.softReset_phase, State.statusWord_of_cleared s.softReset_status s.softReset_phase,
      State.wbByte_softReset_of_encode, State.wbByte_softReset_of_ne_encode⟩
  · exact ⟨nofun, fun _ => rfl⟩

end Sys2Proof.Machine
end
